-- ==== Sys2Proof/Word.lean ====
section
/-! DEFINITION. The words of the block (R9, R57): bytes, 16-bit micro-op words, 32-bit host registers; the levels of the
reset line (R33); and the form memory is held in. -/

namespace Sys2Proof

/-- A byte of a command record (R50). -/
abbrev Byte := BitVec 8

/-- A word of the micro-program ROM (R80, R84). -/
abbrev UopWord := BitVec 16

/-- A register of the host port, moved whole (R22). -/
abbrev HostWord := BitVec 32

/-- Byte-addressed read-only memory (R51): address and byte pairs, addresses strictly rising, no byte equal to what an
unlisted address reads as. -/
abbrev Memory := List Host.Cell

/-- A level driven on the panel's reset line; `low` is asserted (R33). -/
inductive Level where
  | low
  | high
  deriving DecidableEq, Repr, Inhabited

end Sys2Proof
end

