-- ==== Sys2Proof/Syntax.lean ====
section
/-! DEFINITION. The instructions: one constructor per row of spec/opcode_table.json. The first five are the host operations
(format HOSTCMD, R81), the other ten the micro-ops (format UOP16, R84). -/

namespace Sys2Proof

inductive Instr where
  /-- PREPARE, OP 0 (R115) -/
  | prepare
  /-- ENABLE, OP 1 (R120) -/
  | enable
  /-- DISABLE, OP 2 (R125) -/
  | disable
  /-- UNPREPARE, OP 3 (R130) -/
  | unprepare
  /-- GET_MODES, OP 4 (R195) -/
  | getModes
  /-- END (R172) -/
  | endProgram
  /-- RAIL with FATAL and EN (R152) -/
  | rail (fatal en : Bool)
  /-- RST with LEVEL (R154) -/
  | rst (level : Level)
  /-- WAIT with MS milliseconds (R156) -/
  | wait (ms : BitVec 12)
  /-- REPLAY (R160) -/
  | replay
  /-- DCS enter_sleep with WIDX (R164) -/
  | dcsEnterSleep (widx : BitVec 2)
  /-- DCS exit_sleep with WIDX (R165) -/
  | dcsExitSleep (widx : BitVec 2)
  /-- DCS display_off with WIDX (R166) -/
  | dcsDisplayOff (widx : BitVec 2)
  /-- DCS display_on with WIDX (R167) -/
  | dcsDisplayOn (widx : BitVec 2)
  /-- SETST with the state code S (R170) -/
  | setst (s : BitVec 3)
  deriving DecidableEq, Repr

/-- A host operation, which a write to CMD issues; every other instruction is a micro-op. -/
def Instr.isHost : Instr → Bool
  | .prepare | .enable | .disable | .unprepare | .getModes => true
  | .endProgram | .rail _ _ | .rst _ | .wait _ | .replay => false
  | .dcsEnterSleep _ | .dcsExitSleep _ | .dcsDisplayOff _ | .dcsDisplayOn _ | .setst _ => false

end Sys2Proof
end

