-- ==== Sys2Proof/WellFormed.lean ====
section
/-! DEFINITION. Which instructions have an encoding. Every operand's width is in its type; the one check left is SETST's state
code, legal only from 0 to 4 (R85, R91). -/

namespace Sys2Proof

def Instr.wellFormed : Instr → Bool
  | .prepare | .enable | .disable | .unprepare | .getModes => true
  | .endProgram | .rail _ _ | .rst _ | .wait _ | .replay => true
  | .dcsEnterSleep _ | .dcsExitSleep _ | .dcsDisplayOff _ | .dcsDisplayOn _ => true
  | .setst s => decide (s.toNat ≤ 4)

end Sys2Proof
end

