-- ==== Sys2Proof/Decode.lean ====
section
/-! DEFINITION. Decoding and encoding of the two instruction formats (R81, R84 to R88). Both decoders are total and reject by
name. A RECORD is two opaque bytes and is never decoded (R89). -/

namespace Sys2Proof

/-- Why a word spells no instruction (R91, R93). -/
inductive DecodeError where
  /-- CLASS 0x7 to 0xF (R91) -/
  | reservedClass
  /-- a reserved ARG bit of a micro-op word is not zero (R85, R91) -/
  | reservedBits
  /-- a DCS word whose SEL is none of 0x10, 0x11, 0x28, 0x29 (R91) -/
  | badSelector
  /-- a SETST word with S of 5, 6 or 7 (R91) -/
  | badStateCode
  /-- a host word with OP of 5, 6 or 7 (R93) -/
  | reservedOp
  /-- a host word with a non-zero `[31:3]` (R93) -/
  | reservedHostBits
  deriving DecidableEq, Repr

/-- A word with its format: the block never sees a word without knowing which (R80). -/
inductive Code where
  | host (w : HostWord)
  | uop (w : UopWord)
  deriving DecidableEq, Repr

/-- LEVEL: 0 is Low, 1 is High (R85). -/
def Level.ofBit (b : Bool) : Level := if b then .high else .low

def Level.bit : Level → Bool
  | .low => false
  | .high => true

/-- The DCS micro-op that a selector names, R88. -/
def dcsOfSel (sel : BitVec 8) (widx : BitVec 2) : Except DecodeError Instr :=
  if sel = 0x10#8 then .ok (.dcsEnterSleep widx)
  else if sel = 0x11#8 then .ok (.dcsExitSleep widx)
  else if sel = 0x28#8 then .ok (.dcsDisplayOff widx)
  else if sel = 0x29#8 then .ok (.dcsDisplayOn widx)
  else .error .badSelector

/-- The micro-op decode function (R87). -/
def decodeUop (w : UopWord) : Except DecodeError Instr :=
  let cls := w.extractLsb' 12 4
  if cls = 0x0#4 then
    if w.extractLsb' 0 12 = 0 then .ok .endProgram else .error .reservedBits
  else if cls = 0x1#4 then
    if w.extractLsb' 2 10 = 0 then .ok (.rail (w.getLsbD 1) (w.getLsbD 0)) else .error .reservedBits
  else if cls = 0x2#4 then
    if w.extractLsb' 1 11 = 0 then .ok (.rst (Level.ofBit (w.getLsbD 0))) else .error .reservedBits
  else if cls = 0x3#4 then .ok (.wait (w.extractLsb' 0 12))
  else if cls = 0x4#4 then
    if w.extractLsb' 0 12 = 0 then .ok .replay else .error .reservedBits
  else if cls = 0x5#4 then
    if w.extractLsb' 10 2 = 0 then dcsOfSel (w.extractLsb' 0 8) (w.extractLsb' 8 2) else .error .reservedBits
  else if cls = 0x6#4 then
    if w.extractLsb' 3 9 = 0 then
      if (w.extractLsb' 0 3).toNat ≤ 4 then .ok (.setst (w.extractLsb' 0 3)) else .error .badStateCode
    else .error .reservedBits
  else .error .reservedClass

/-- The host word written to CMD (R81, R93). -/
def decodeHost (w : HostWord) : Except DecodeError Instr :=
  if w.extractLsb' 3 29 = 0 then
    let op := w.extractLsb' 0 3
    if op = 0#3 then .ok .prepare
    else if op = 1#3 then .ok .enable
    else if op = 2#3 then .ok .disable
    else if op = 3#3 then .ok .unprepare
    else if op = 4#3 then .ok .getModes
    else .error .reservedOp
  else .error .reservedHostBits

def decode : Code → Except DecodeError Instr
  | .host w => decodeHost w
  | .uop w => decodeUop w

/-- A DCS word: class 5, `[11:10] = 0`, WIDX, SEL (R85). -/
def encodeDcs (sel : BitVec 8) (widx : BitVec 2) : UopWord := 0x5#4 ++ 0#2 ++ widx ++ sel

/-- The word of an instruction (R81, R84 to R86, R88). An ill-formed SETST is laid out like any other; `decode` refuses it. -/
def encode : Instr → Code
  | .prepare => .host 0x00000000#32
  | .enable => .host 0x00000001#32
  | .disable => .host 0x00000002#32
  | .unprepare => .host 0x00000003#32
  | .getModes => .host 0x00000004#32
  | .endProgram => .uop 0x0000#16
  | .rail fatal en => .uop (0x1#4 ++ 0#10 ++ BitVec.ofBool fatal ++ BitVec.ofBool en)
  | .rst level => .uop (0x2#4 ++ 0#11 ++ BitVec.ofBool level.bit)
  | .wait ms => .uop (0x3#4 ++ ms)
  | .replay => .uop 0x4000#16
  | .dcsEnterSleep widx => .uop (encodeDcs 0x10#8 widx)
  | .dcsExitSleep widx => .uop (encodeDcs 0x11#8 widx)
  | .dcsDisplayOff widx => .uop (encodeDcs 0x28#8 widx)
  | .dcsDisplayOn widx => .uop (encodeDcs 0x29#8 widx)
  | .setst s => .uop (0x6#4 ++ 0#9 ++ s)

/-- What the decoder reads from a word numbered as spec/opcode_table.json numbers it: its HOSTCMD rows have 32 bits and its
UOP16 rows 16, so the number of bits names the format. Both formats are one whole word (R80), so no word order arises. -/
def decodeTableWord (nbits w : Nat) : Option Instr :=
  if nbits = 32 then (decode (.host (BitVec.ofNat 32 w))).toOption
  else if nbits = 16 then (decode (.uop (BitVec.ofNat 16 w))).toOption
  else none

end Sys2Proof
end

