-- ==== Sys2Proof/Machine/Memory.lean ====
section
/-! DEFINITION. The command-table ROM as memory (R50, R51): reading a byte, and laying bytes out in the canonical form. There
is no write: no rule writes any memory of the block (R10, R58). -/

namespace Sys2Proof

/-- What an address that the list does not hold reads as. DESIGN CHOICE (log 2): it is how a zero byte is written down, since
the table's contents are a parameter and every contents has its list. -/
def Memory.unlisted : Byte := 0#8

/-- `MemRead(addr, 1)` on the bytes themselves: it never fails (R10). -/
def Memory.read : Memory → Nat → Byte
  | [], _ => Memory.unlisted
  | (k, b) :: m, a => if a = k then b else Memory.read m a

/-- The canonical form: addresses strictly rising, no entry equal to what an unlisted address reads as. -/
def Memory.wf : Memory → Bool
  | [] => true
  | (k, b) :: m => decide (b ≠ Memory.unlisted) && m.all (fun c => decide (k < c.1)) && Memory.wf m

/-- Every listed address lies below `n`. -/
def Memory.below (n : Nat) (m : Memory) : Bool := m.all (fun c => decide (c.1 < n))

/-- Bytes laid out from an address upwards. -/
def Memory.ofBytes (base : Nat) : List Byte → Memory
  | [] => []
  | b :: bs =>
    if b = Memory.unlisted then Memory.ofBytes (base + 1) bs else (base, b) :: Memory.ofBytes (base + 1) bs

/-- Records laid out as R51 says: byte `2*i` is `b0` and byte `2*i+1` is `b1` of record i. -/
def Memory.ofRecords (rs : List (Byte × Byte)) : Memory :=
  Memory.ofBytes 0 (rs.flatMap fun r => [r.1, r.2])

/-- The memory whose first `n` bytes are given by `f`. -/
def Memory.rom (f : Nat → Byte) (n : Nat) : Memory := Memory.ofBytes 0 ((List.range n).map f)

end Sys2Proof
end

