-- ==== Sys2Proof/Config.lean ====
section
/-! DEFINITION. What is fixed for the machine and what the environment chooses: the implementation parameters of R7 (a
PanelConfig, R36), the normative mode constants (R191), the environment's turns (R10, R22, R234), and the opaque constants
that stand for every value the spec leaves open. -/

namespace Sys2Proof

/-! ## Normative mode constants, R190 and R191 -/

def Config.clock : Nat := 275000000
def Config.hdisplay : Nat := 1600
def Config.htotal : Nat := 1700
def Config.vdisplay : Nat := 2560
def Config.vtotal : Nat := 2694
def Config.widthMm : Nat := 266
def Config.heightMm : Nat := 166

/-! ## Parameters, R7 and R36 -/

/-- LANES, one of 1, 2, 3, 4 (R7, R199). -/
inductive LaneCount where
  | one
  | two
  | three
  | four
  deriving DecidableEq, Repr, Inhabited

/-- PIXEL_FORMAT, a fixed enum of which the spec names one value, RGB888 (R7, R36). `other` stands for the values it does not
name. -/
inductive PixelFormat where
  | rgb888
  | other (n : Nat)
  deriving DecidableEq, Repr, Inhabited

/-- UNPREPARE_WHEN_UNPOWERED (R7, R131). -/
inductive UnprepareMode where
  | noop
  | reissue
  deriving DecidableEq, Repr, Inhabited

/-- The front porch, sync and back porch of one direction (R190, R192). -/
structure Blanking where
  front : Nat
  sync : Nat
  back : Nat
  deriving DecidableEq, Repr

def Blanking.total (b : Blanking) : Nat := b.front + b.sync + b.back

/-- The configuration ROM of one instance (R36, R53), with the block's parameters of R7. `N_REC <= 65535` is its width (D34). -/
structure PanelConfig where
  nRec : BitVec 16
  table : Memory
  lanes : LaneCount
  pixelFormat : PixelFormat
  pixelFormatCode : BitVec 8
  horizontal : Blanking
  vertical : Blanking
  unprepareWhenUnpowered : UnprepareMode
  deriving DecidableEq, Repr

/-- What R7, R51 and R192 ask of the parameters: the table lies in bytes 0 to `2*N_REC - 1` and is in canonical form, and the
blanking sums are 100 and 134. -/
def PanelConfig.wf (c : PanelConfig) : Bool :=
  Memory.wf c.table && Memory.below (2 * c.nRec.toNat) c.table
    && decide (c.horizontal.total = Config.htotal - Config.hdisplay)
    && decide (c.vertical.total = Config.vtotal - Config.vdisplay)

/-- A compatibility key, a string (R7, R253), held as its characters. -/
abbrev CompatKey := List Char

/-! ## The environment, R10, R22, R153, R196 and R234 -/

/-- The answer to an external request (R11). -/
inductive Resp where
  | ok
  | err
  deriving DecidableEq, Repr, Inhabited

/-- What the host can do in a step: a register access (R22), attach (R250) or detach (R252). -/
inductive HostAccess where
  | read (n : Nat)
  | write (n : Nat) (v : HostWord)
  | attach (key : CompatKey)
  | detach
  deriving DecidableEq, Repr, Inhabited

/-- The environment's part of one step. `dt` is how far `now` moves (R234: it never decreases). `host` is the host's access
when it is the host's turn; otherwise the sequencer runs. `resp` is the answer that comes in this step, if one does (R153).
`alloc` is the allocation draw (R196). -/
structure Input where
  dt : Nat
  host : Option HostAccess
  resp : Option Resp
  alloc : Resp
  deriving DecidableEq, Repr, Inhabited

/-! ## Open values. They have no body: nothing can be proved of their value (log 4, log 9) -/

/-- The environment's turn, where no list of turns says it (log 4). -/
opaque Config.freeInput : Nat → Input

/-- N_REC of the attached panel (R7, D21). -/
opaque Config.nRec : BitVec 16

/-- The bytes of the command table, of which the first `2*N_REC` are used (R7, D21). -/
opaque Config.tableByte : Nat → Byte

/-- LANES (R7, D24). -/
opaque Config.lanes : LaneCount

/-- PIXEL_FORMAT (R7, D24). -/
opaque Config.pixelFormat : PixelFormat

/-- PIXEL_FORMAT_CODE, the encoding of PIXEL_FORMAT in CFG_LINK (R199, U23). -/
opaque Config.pixelFormatCode : BitVec 8

/-- A free natural behind each porch and sync value; `Config.split` turns two of them into a split that meets R192. -/
opaque Config.porchDraw : Nat → Nat

/-- COMPAT_KEY (R7, D24). -/
opaque Config.compatKey : CompatKey

/-- What an MO or DI register holds before its first write, by register number: nothing says what, and it is not known to be 0
(R23; D20: reads of unknown state are unconstrained; log 3). -/
opaque Config.unwrittenWord : Nat → HostWord

/-- UNPREPARE_WHEN_UNPOWERED (R7, D13). The spec's default is `noop`; no value is assumed. -/
opaque Config.unprepareWhenUnpowered : UnprepareMode

/-- A split of `total` into front porch, sync and back porch; every split is one of these (R192). -/
def Config.split (total a b : Nat) : Blanking :=
  let front := a % (total + 1)
  let sync := b % (total - front + 1)
  ⟨front, sync, total - front - sync⟩

/-- The PanelConfig registered under COMPAT_KEY (R253), every open parameter left open. -/
def Config.panel : PanelConfig where
  nRec := Config.nRec
  table := Memory.rom Config.tableByte (2 * Config.nRec.toNat)
  lanes := Config.lanes
  pixelFormat := Config.pixelFormat
  pixelFormatCode := Config.pixelFormatCode
  horizontal := Config.split (Config.htotal - Config.hdisplay) (Config.porchDraw 0) (Config.porchDraw 1)
  vertical := Config.split (Config.vtotal - Config.vdisplay) (Config.porchDraw 2) (Config.porchDraw 3)
  unprepareWhenUnpowered := Config.unprepareWhenUnpowered

end Sys2Proof
end

