-- ==== Sys2Proof/Machine/State.lean ====
section
/-! DEFINITION. The state of one instance of the block and of the environment's part of a step, as plain data; what can stop a
step; and the state after reset (R39). -/

namespace Sys2Proof.Machine

/-- The lifecycle states (R25, R82). The codes 5, 6 and 7 have no constructor: they are never held. -/
inductive LifeState where
  | unpowered
  | resetting
  | configured
  | active
  | sleeping
  deriving DecidableEq, Repr

/-- The host operations (R81). -/
inductive HostOp where
  | prepare
  | enable
  | disable
  | unprepare
  | getModes
  deriving DecidableEq, Repr

/-- The result codes (R29, R83). `notFound` is used by the attach port only. -/
inductive ResultCode where
  | ok
  | powerError
  | transportError
  | stateError
  | allocationError
  | notFound
  | none
  deriving DecidableEq, Repr

/-- PEND, the result END will report: Ok or PowerError (R34). -/
inductive Pend where
  | ok
  | powerError
  deriving DecidableEq, Repr

/-- RAIL_REQ (R32). -/
inductive RailReq where
  | unknown
  | off
  | on
  deriving DecidableEq, Repr

/-- RESET_N (R33): unknown, or the level last driven. -/
inductive ResetLine where
  | unknown
  | driven (level : Level)
  deriving DecidableEq, Repr

/-- The Transport Adapter's convenience operations (R88, R231). -/
inductive DcsCmd where
  | enterSleep
  | exitSleep
  | setDisplayOff
  | setDisplayOn
  deriving DecidableEq, Repr

/-- A request to an external collaborator (R231, R232); a record write carries its index for the trace. -/
inductive Request where
  | setRail (en : Bool)
  | write (i : Nat) (b0 b1 : Byte)
  | dcs (cmd : DcsCmd)
  deriving DecidableEq, Repr

/-- The event kinds (R13). -/
inductive EventKind where
  | rail (en : Bool) (resp : Resp)
  | rst (level : Level)
  | write (i : Nat) (b0 b1 : Byte) (resp : Resp)
  | dcs (cmd : DcsCmd) (resp : Resp)
  | state (s : LifeState)
  | accept (op : HostOp)
  | done (op : HostOp) (result : ResultCode)
  deriving DecidableEq, Repr

/-- An event with its issue and completion timestamps (R13). -/
structure Event where
  kind : EventKind
  ts : Nat
  tc : Nat
  deriving DecidableEq, Repr

/-- How far the micro-op at UPC has come (R150: it takes as many steps as the environment or time source needs): not begun,
begun, or waiting for the answer to a request issued at `ts` (log 5). -/
inductive Phase where
  | fresh
  | begun
  | awaiting (req : Request) (ts : Nat)
  deriving DecidableEq, Repr

/-- An MO or DI register: the word it holds, and whether it has been written since the instance was created (R23, R39, log 3). -/
structure ModeReg where
  value : HostWord
  written : Bool
  deriving DecidableEq, Repr

/-- The register after a write of `v`. -/
def ModeReg.holding (v : HostWord) : ModeReg := ⟨v, true⟩

/-- The register with number `n` before its first write. -/
def ModeReg.unwritten (n : Nat) : ModeReg := ⟨Config.unwrittenWord n, false⟩

/-- The MO and DI registers, 0x10 to 0x1F (R23, R35). -/
structure ModeBank where
  moClock : ModeReg
  moHdisplay : ModeReg
  moHfp : ModeReg
  moHsync : ModeReg
  moHbp : ModeReg
  moHtotal : ModeReg
  moVdisplay : ModeReg
  moVfp : ModeReg
  moVsync : ModeReg
  moVbp : ModeReg
  moVtotal : ModeReg
  moWidthMm : ModeReg
  moHeightMm : ModeReg
  moType : ModeReg
  diWidthMm : ModeReg
  diHeightMm : ModeReg
  deriving DecidableEq, Repr

/-- The bank before its first write (R23, R39). -/
def ModeBank.unwritten : ModeBank where
  moClock := .unwritten 0x10
  moHdisplay := .unwritten 0x11
  moHfp := .unwritten 0x12
  moHsync := .unwritten 0x13
  moHbp := .unwritten 0x14
  moHtotal := .unwritten 0x15
  moVdisplay := .unwritten 0x16
  moVfp := .unwritten 0x17
  moVsync := .unwritten 0x18
  moVbp := .unwritten 0x19
  moVtotal := .unwritten 0x1A
  moWidthMm := .unwritten 0x1B
  moHeightMm := .unwritten 0x1C
  moType := .unwritten 0x1D
  diWidthMm := .unwritten 0x1E
  diHeightMm := .unwritten 0x1F

/-- The micro-program ROM, one list of words for each lifecycle operation, addressed by (CUR_OP, UPC) (R52). -/
structure MicroRom where
  prepare : List UopWord
  enable : List UopWord
  disable : List UopWord
  unprepare : List UopWord
  deriving DecidableEq, Repr

/-- The fixed contents of the micro-program ROM (R90). -/
def MicroRom.fixed : MicroRom where
  prepare := [0x1003#16, 0x2000#16, 0x3078#16, 0x2001#16, 0x3078#16, 0x6001#16, 0x0000#16]
  enable := [0x300A#16, 0x4000#16, 0x6002#16, 0x3078#16, 0x5011#16, 0x5129#16, 0x6003#16, 0x0000#16]
  disable := [0x5228#16, 0x5310#16, 0x6004#16, 0x0000#16]
  unprepare := [0x2000#16, 0x3078#16, 0x1000#16, 0x6000#16, 0x0000#16]

/-- The answers drawn for the present step (R10): whether an answer comes, and the allocation draw. -/
structure Draw where
  resp : Option Resp
  alloc : Resp
  deriving DecidableEq, Repr

/-- The machine: the instance's registers, its ROMs, its hidden sequencer state, its trace, and the environment. -/
structure State where
  /-- the configuration ROM (R36) -/
  cfg : PanelConfig
  /-- the micro-program ROM (R52) -/
  urom : MicroRom
  /-- INSTANCE_LIVE (R37) -/
  live : Bool
  /-- STATUS.STATE (R25) -/
  lifeState : LifeState
  /-- STATUS.BUSY (R27) -/
  busy : Bool
  /-- STATUS.PROTO_FAULT (R28) -/
  protoFault : Bool
  /-- the mark of a state in which the host has read an unwritten MO or DI register (R23, U12, log 3) -/
  readFault : Bool
  /-- RESULT.CODE (R29) -/
  result : ResultCode
  /-- WARN (R30) -/
  warn : BitVec 4
  /-- REC_IDX.IDX (R31) -/
  recIdx : BitVec 16
  /-- the MO and DI registers (R35) -/
  bank : ModeBank
  /-- RAIL_REQ (R32) -/
  railReq : RailReq
  /-- RESET_N (R33) -/
  resetN : ResetLine
  /-- CUR_OP (R34) -/
  curOp : Option HostOp
  /-- UPC (R34) -/
  upc : Nat
  /-- PEND (R34) -/
  pend : Pend
  /-- T0 (R34) -/
  t0 : Nat
  /-- RI (R34) -/
  ri : Nat
  /-- progress within the micro-op at UPC (log 5) -/
  phase : Phase
  /-- when the previous micro-op completed or the operation was accepted (R156, log 6) -/
  lastDone : Nat
  /-- a detach waits for the operation in flight (R252, log 13) -/
  detaching : Bool
  /-- the attach port's last result (R250, log 14) -/
  attachResult : ResultCode
  /-- the register number and value of the last host read (R22, log 12) -/
  readData : Option (Nat × HostWord)
  /-- the event trace, newest event first (R13, log 11) -/
  trace : List Event
  /-- the current timestamp in microseconds (R234, log 8) -/
  now : Nat
  /-- this step's draws (log 4) -/
  draw : Draw
  /-- the environment's coming turns, the next one first (log 4) -/
  inputs : List Input
  /-- the counter at which the free input is taken (log 4) -/
  tick : Nat
  /-- the registry of compatibility keys (R253) -/
  registry : List (CompatKey × PanelConfig)
  deriving DecidableEq, Repr

/-- Why a step stops with a fault. -/
inductive Fault where
  /-- STATE would hold 5, 6 or 7 (R25: "A model whose STATE holds one of them is in error and faults"). Raised by `execSetst` on
  an ill-formed SETST, which no decoder gives. Safe. -/
  | illegalStateCode (s : BitVec 3)
  deriving DecidableEq, Repr

/-- Why a step is refused. -/
inductive Refusal where
  /-- An instruction that has no meaning yet. No arm of `exec` uses it now. Safe. -/
  | notModelled (mnemonic : String)
  /-- The word at UPC decodes to no micro-op (R91: "A model that meets one refuses it"). Raised by `runMicroOp`. Safe. -/
  | illegalMicroOp (w : UopWord)
  /-- BUSY with no micro-op at (CUR_OP, UPC) (R34, R151: it cannot happen with the fixed ROM). Raised by `runMicroOp`. Safe. -/
  | noMicroOp
  /-- A command-table address at or above `2*N_REC` (R51: "A model refuses one"). Raised by `execReplay`, which never generates
  one. Safe. -/
  | tableAddress (addr : Nat)
  /-- An attach to a live instance: the spec has one instance for each attachment and no second attach (R250, log 14). Raised by
  `attach`. Safe. -/
  | attachWhileLive
  /-- A second detach while one is waiting (R252, log 13). Raised by `detach`. Safe. -/
  | detachWhileDetaching
  deriving DecidableEq, Repr

/-- The state right after reset, which is the creation of the instance by a successful attach (R39, R250, R251). -/
def State.reset : State where
  cfg := Config.panel
  urom := MicroRom.fixed
  live := true
  lifeState := .unpowered
  busy := false
  protoFault := false
  readFault := false
  result := .none
  warn := 0#4
  recIdx := 0#16
  bank := ModeBank.unwritten
  railReq := .unknown
  resetN := .unknown
  curOp := none
  upc := 0
  pend := .ok
  t0 := 0
  ri := 0
  phase := .fresh
  lastDone := 0
  detaching := false
  attachResult := .ok
  readData := none
  trace := []
  now := 0
  draw := ⟨none, .ok⟩
  inputs := []
  tick := 0
  registry := [(Config.compatKey, Config.panel)]

end Sys2Proof.Machine
end

