-- ==== Sys2Proof/Machine/Operands.lean ====
section
/-! DEFINITION. What the operand fields and code fields stand for (R82, R83, R86, R88), and the numbers of the host registers
(R23). -/

namespace Sys2Proof.Machine

/-- STATE3 codes (R82). -/
def LifeState.code : LifeState → BitVec 3
  | .unpowered => 0#3
  | .resetting => 1#3
  | .configured => 2#3
  | .active => 3#3
  | .sleeping => 4#3

/-- The state with a STATE3 code; 5, 6 and 7 name none (R82). -/
def LifeState.ofCode (c : BitVec 3) : Option LifeState :=
  if c = 0#3 then some .unpowered
  else if c = 1#3 then some .resetting
  else if c = 2#3 then some .configured
  else if c = 3#3 then some .active
  else if c = 4#3 then some .sleeping
  else none

/-- RESULT3 codes (R83). -/
def ResultCode.code : ResultCode → BitVec 3
  | .ok => 0#3
  | .powerError => 1#3
  | .transportError => 2#3
  | .stateError => 3#3
  | .allocationError => 4#3
  | .notFound => 5#3
  | .none => 7#3

/-- The result that END reports for a PEND (R172). -/
def Pend.toResult : Pend → ResultCode
  | .ok => .ok
  | .powerError => .powerError

/-- OP values (R81). -/
def HostOp.code : HostOp → BitVec 3
  | .prepare => 0#3
  | .enable => 1#3
  | .disable => 2#3
  | .unprepare => 3#3
  | .getModes => 4#3

/-- The host instruction of an operation. -/
def HostOp.instr : HostOp → Instr
  | .prepare => .prepare
  | .enable => .enable
  | .disable => .disable
  | .unprepare => .unprepare
  | .getModes => .getModes

/-- SEL values (R88). -/
def DcsCmd.sel : DcsCmd → BitVec 8
  | .enterSleep => 0x10#8
  | .exitSleep => 0x11#8
  | .setDisplayOff => 0x28#8
  | .setDisplayOn => 0x29#8

/-- LANES as the number it is (R199). -/
def laneNumber : LaneCount → Nat
  | .one => 1
  | .two => 2
  | .three => 3
  | .four => 4

/-- The rail level that a RAIL micro-op requests (R152). -/
def RailReq.ofEn (en : Bool) : RailReq := if en then .on else .off

/-- A WAIT's gate in microseconds, `1000 * zext(MS)` (R86). -/
def gateMicros (ms : BitVec 12) : Nat := 1000 * ms.toNat

/-- The registers of the MO and DI bank (R23). -/
inductive BankReg where
  | moClock
  | moHdisplay
  | moHfp
  | moHsync
  | moHbp
  | moHtotal
  | moVdisplay
  | moVfp
  | moVsync
  | moVbp
  | moVtotal
  | moWidthMm
  | moHeightMm
  | moType
  | diWidthMm
  | diHeightMm
  deriving DecidableEq, Repr

/-- The mapped host registers (R23). -/
inductive HostReg where
  | cmd
  | status
  | result
  | warn
  | recIdx
  | cfgNrec
  | cfgLink
  | bank (r : BankReg)
  deriving DecidableEq, Repr

/-- The register map (R23); the numbers it does not list are unmapped (R38). -/
def HostReg.ofNum : Nat → Option HostReg
  | 0x00 => some .cmd
  | 0x01 => some .status
  | 0x02 => some .result
  | 0x03 => some .warn
  | 0x04 => some .recIdx
  | 0x05 => some .cfgNrec
  | 0x06 => some .cfgLink
  | 0x10 => some (.bank .moClock)
  | 0x11 => some (.bank .moHdisplay)
  | 0x12 => some (.bank .moHfp)
  | 0x13 => some (.bank .moHsync)
  | 0x14 => some (.bank .moHbp)
  | 0x15 => some (.bank .moHtotal)
  | 0x16 => some (.bank .moVdisplay)
  | 0x17 => some (.bank .moVfp)
  | 0x18 => some (.bank .moVsync)
  | 0x19 => some (.bank .moVbp)
  | 0x1A => some (.bank .moVtotal)
  | 0x1B => some (.bank .moWidthMm)
  | 0x1C => some (.bank .moHeightMm)
  | 0x1D => some (.bank .moType)
  | 0x1E => some (.bank .diWidthMm)
  | 0x1F => some (.bank .diHeightMm)
  | _ => none

/-- A register of the bank. -/
def ModeBank.get (b : ModeBank) : BankReg → ModeReg
  | .moClock => b.moClock
  | .moHdisplay => b.moHdisplay
  | .moHfp => b.moHfp
  | .moHsync => b.moHsync
  | .moHbp => b.moHbp
  | .moHtotal => b.moHtotal
  | .moVdisplay => b.moVdisplay
  | .moVfp => b.moVfp
  | .moVsync => b.moVsync
  | .moVbp => b.moVbp
  | .moVtotal => b.moVtotal
  | .moWidthMm => b.moWidthMm
  | .moHeightMm => b.moHeightMm
  | .moType => b.moType
  | .diWidthMm => b.diWidthMm
  | .diHeightMm => b.diHeightMm

/-- All 32 written bits are stored, the reserved ones of MO_TYPE too (R38). -/
def ModeBank.set (b : ModeBank) (v : HostWord) : BankReg → ModeBank
  | .moClock => { b with moClock := .holding v }
  | .moHdisplay => { b with moHdisplay := .holding v }
  | .moHfp => { b with moHfp := .holding v }
  | .moHsync => { b with moHsync := .holding v }
  | .moHbp => { b with moHbp := .holding v }
  | .moHtotal => { b with moHtotal := .holding v }
  | .moVdisplay => { b with moVdisplay := .holding v }
  | .moVfp => { b with moVfp := .holding v }
  | .moVsync => { b with moVsync := .holding v }
  | .moVbp => { b with moVbp := .holding v }
  | .moVtotal => { b with moVtotal := .holding v }
  | .moWidthMm => { b with moWidthMm := .holding v }
  | .moHeightMm => { b with moHeightMm := .holding v }
  | .moType => { b with moType := .holding v }
  | .diWidthMm => { b with diWidthMm := .holding v }
  | .diHeightMm => { b with diHeightMm := .holding v }

/-- A mode constant, a natural, as the host register holds it (R55). -/
def modeWord (n : Nat) : HostWord := BitVec.ofNat 32 n

/-- The bank that a successful GET_MODES leaves (R195), MO_TYPE with DRIVER and PREFERRED (R194). -/
def ModeBank.ofConfig (c : PanelConfig) : ModeBank where
  moClock := .holding (modeWord Config.clock)
  moHdisplay := .holding (modeWord Config.hdisplay)
  moHfp := .holding (modeWord c.horizontal.front)
  moHsync := .holding (modeWord c.horizontal.sync)
  moHbp := .holding (modeWord c.horizontal.back)
  moHtotal := .holding (modeWord Config.htotal)
  moVdisplay := .holding (modeWord Config.vdisplay)
  moVfp := .holding (modeWord c.vertical.front)
  moVsync := .holding (modeWord c.vertical.sync)
  moVbp := .holding (modeWord c.vertical.back)
  moVtotal := .holding (modeWord Config.vtotal)
  moWidthMm := .holding (modeWord Config.widthMm)
  moHeightMm := .holding (modeWord Config.heightMm)
  moType := .holding 0b11#32
  diWidthMm := .holding (modeWord Config.widthMm)
  diHeightMm := .holding (modeWord Config.heightMm)

end Sys2Proof.Machine
end

