-- ==== Sys2Proof/Machine/Flags.lean ====
section
/-! DEFINITION. The status words the host reads (R23) and the WARN bits (R30). -/

namespace Sys2Proof.Machine

/-- WARN with bit `widx` set (R30, R163). -/
def warnSet (warn : BitVec 4) (widx : BitVec 2) : BitVec 4 := warn ||| (1#4 <<< widx.toNat)

/-- STATUS: `[2:0] STATE`, `[3] BUSY`, `[4] PROTO_FAULT`, `[31:5]` read 0 (R23). -/
def statusWord (s : State) : HostWord :=
  0#27 ++ BitVec.ofBool s.protoFault ++ BitVec.ofBool s.busy ++ s.lifeState.code

/-- RESULT: `[2:0] CODE` (R23). -/
def resultWord (s : State) : HostWord := 0#29 ++ s.result.code

/-- WARN: four bits (R23). -/
def warnWord (s : State) : HostWord := 0#28 ++ s.warn

/-- REC_IDX: `[15:0] IDX` (R23). -/
def recIdxWord (s : State) : HostWord := 0#16 ++ s.recIdx

/-- CFG_NREC: `[15:0] N_REC` (R23). -/
def cfgNrecWord (c : PanelConfig) : HostWord := 0#16 ++ c.nRec

/-- CFG_LINK: `[2:0] LANES`, `[15:8] PIXEL_FORMAT`, other bits read 0 (R23, R199). -/
def cfgLinkWord (c : PanelConfig) : HostWord :=
  0#16 ++ c.pixelFormatCode ++ 0#5 ++ BitVec.ofNat 3 (laneNumber c.lanes)

end Sys2Proof.Machine
end

