-- ==== Sys2Proof/Machine/Ops.lean ====
section
/-! DEFINITION. The operations the meanings share: table reads, the event trace, external requests, the end of a micro-op, the
end of an operation (`raise` and END), and the acceptance of a host command. -/

namespace Sys2Proof.Machine

/-! ## ROM reads -/

/-- `MemRead(addr, 1)` on the command-table ROM; `none` for an address at or above `2*N_REC` (R51). -/
def memRead (c : PanelConfig) (addr : Nat) : Option Byte :=
  if addr < 2 * c.nRec.toNat then some (Memory.read c.table addr) else none

/-- `TableRead(i)`: the bytes at `2*i` and `2*i+1` (R10, R51). -/
def tableRead (c : PanelConfig) (i : Nat) : Option (Byte × Byte) :=
  match memRead c (2 * i), memRead c (2 * i + 1) with
  | some b0, some b1 => some (b0, b1)
  | _, _ => none

/-- The micro-program of an operation; GET_MODES has none (R90). -/
def microProgram (m : MicroRom) : HostOp → List UopWord
  | .prepare => m.prepare
  | .enable => m.enable
  | .disable => m.disable
  | .unprepare => m.unprepare
  | .getModes => []

/-- `MicroROM[CUR_OP][UPC]` (R150). -/
def State.fetch (s : State) : Option UopWord :=
  match s.curOp with
  | none => none
  | some op => (microProgram s.urom op)[s.upc]?

/-! ## The event trace, R13 -/

/-- `Emit(k)` for an event issued at `ts` and completed now. -/
def State.emitFrom (s : State) (ts : Nat) (k : EventKind) : State :=
  { s with trace := ⟨k, ts, s.now⟩ :: s.trace }

/-- `Emit(k)` for an event with `ts = tc = now`. -/
def State.emit (s : State) (k : EventKind) : State := s.emitFrom s.now k

/-! ## External requests, R10, R62 -/

/-- The micro-op at UPC has issued its request and waits for the answer. -/
def State.requesting (s : State) : Bool :=
  match s.phase with
  | .awaiting _ _ => true
  | .fresh | .begun => false

/-- When the outstanding request was issued; now, if none is outstanding. -/
def State.issueTime (s : State) : Nat :=
  match s.phase with
  | .awaiting _ ts => ts
  | .fresh | .begun => s.now

/-- A request is issued at `now`, unless the micro-op has issued it already and waits. -/
def Phase.request (ph : Phase) (req : Request) (now : Nat) : Phase :=
  match ph with
  | .awaiting q ts => .awaiting q ts
  | .fresh | .begun => .awaiting req now

/-- `Request(port, req)`: issued once (R134), then outstanding until its answer comes. -/
def State.issue (s : State) (req : Request) : State := { s with phase := s.phase.request req s.now }

/-- The rail request: RAIL_REQ is written at issue, whatever the answer (R32, R152). -/
def State.issueRail (s : State) (en : Bool) : State :=
  { s with
    railReq := if s.requesting then s.railReq else RailReq.ofEn en
    phase := s.phase.request (.setRail en) s.now }

/-- The request has been answered: its event, from its issue to now. -/
def State.answered (s : State) (k : EventKind) : State := s.emitFrom s.issueTime k

/-- `Drive(RESET_N, level)`, immediate and infallible, with its event (R10, R154). -/
def State.drive (s : State) (level : Level) : State :=
  State.emit { s with resetN := .driven level } (.rst level)

/-! ## The end of a micro-op and of an operation -/

/-- The micro-op completes without `raise`: UPC advances (R34, R150). -/
def State.complete (s : State) : State :=
  { s with upc := s.upc + 1, phase := .fresh, lastDone := s.now }

/-- The event `DONE(CUR_OP, r)`. With no CUR_OP, which no busy state reached has, there is no operation to name and no event. -/
def doneEvent (op : Option HostOp) (r : ResultCode) (now : Nat) : List Event :=
  match op with
  | some op => [⟨.done op r, now, now⟩]
  | none => []

/-- The operation completes: RESULT is written and BUSY cleared in one step, and DONE is emitted (R27, R172). -/
def State.finish (s : State) (r : ResultCode) : State :=
  { s with result := r, busy := false, phase := .fresh, trace := doneEvent s.curOp r s.now ++ s.trace }

/-- `raise E(info)`: the operation ends at once with RESULT the error; UPC, STATE, REC_IDX, WARN and PEND keep their values
(R171, R220). `info`, the index of a failing record, is what REC_IDX holds. -/
def State.raise (s : State) (e : ResultCode) : State := s.finish e

/-! ## Acceptance of a host command, R110 -/

/-- A host protocol violation: PROTO_FAULT is set and nothing else happens (R223). -/
def State.violate (s : State) : State := { s with protoFault := true }

/-- `Pre(op, STATE)` (R111). -/
def precondition : HostOp → LifeState → Bool
  | .prepare, st => decide (st = .unpowered)
  | .enable, st => decide (st = .resetting)
  | .disable, st => decide (st = .active)
  | .unprepare, _ => true
  | .getModes, _ => true

/-- A refusal with StateError: only RESULT changes (R110, R111). -/
def State.refuseCommand (s : State) (op : HostOp) : State :=
  State.emit (State.emit { s with result := .stateError } (.accept op)) (.done op .stateError)

/-- The micro-program of `op` is entered at UPC 0; the first WAIT would begin now (R60, R110, R156). -/
def State.enter (s : State) (op : HostOp) : State :=
  { s with curOp := some op, upc := 0, pend := .ok, busy := true, phase := .fresh, lastDone := s.now }

/-- An operation that has a micro-program is accepted: WARN is cleared and the program entered (R110, R112). -/
def State.start (s : State) (op : HostOp) : State :=
  State.emit (State.enter { s with warn := 0#4 } op) (.accept op)

/-- The acceptance of a host command in the order of R224: no instance (R223 f), BUSY (R223 a), the precondition, then what
the operation does. -/
def State.accept (s : State) (op : HostOp) (perform : State → State) : Host.Outcome State Fault Refusal :=
  .next (if s.live then
      if s.busy then s.violate
      else if precondition op s.lifeState then perform s
      else s.refuseCommand op
    else s)

end Sys2Proof.Machine
end

