-- ==== Sys2Proof/Machine/Control.lean ====
section
/-! DEFINITION. The state write and the end of a program, SETST and END (R170, R172). -/

namespace Sys2Proof.Machine

/-- SETST (R170): STATE becomes S, in zero time. A code that names no state faults (R25); no decoder gives one (R91). -/
def execSetst (c : BitVec 3) (s : State) : Host.Outcome State Fault Refusal :=
  match LifeState.ofCode c with
  | some st => .next (State.emit { s with lifeState := st } (.state st)).complete
  | none => .fault (.illegalStateCode c)

/-- END (R172): RESULT takes PEND and BUSY clears. -/
def execEndProgram (s : State) : Host.Outcome State Fault Refusal :=
  .next (s.finish s.pend.toResult)

end Sys2Proof.Machine
end

