-- ==== Sys2Proof/Machine/Dcs.lean ====
section
/-! DEFINITION. The four standard DCS commands (R163 to R167). -/

namespace Sys2Proof.Machine

/-- The common part of the DCS micro-ops (R163): a failure sets `WARN[WIDX]` and the program goes on. -/
def State.dcs (s : State) (cmd : DcsCmd) (widx : BitVec 2) : State :=
  let s := s.issue (.dcs cmd)
  match s.draw.resp with
  | none => s
  | some .ok => (s.answered (.dcs cmd .ok)).complete
  | some .err =>
    let s := s.answered (.dcs cmd .err)
    State.complete { s with warn := warnSet s.warn widx }

/-- DCS enter_sleep (R164). -/
def execDcsEnterSleep (widx : BitVec 2) (s : State) : Host.Outcome State Fault Refusal :=
  .next (s.dcs .enterSleep widx)

/-- DCS exit_sleep (R165). -/
def execDcsExitSleep (widx : BitVec 2) (s : State) : Host.Outcome State Fault Refusal :=
  .next (s.dcs .exitSleep widx)

/-- DCS display_off (R166). -/
def execDcsDisplayOff (widx : BitVec 2) (s : State) : Host.Outcome State Fault Refusal :=
  .next (s.dcs .setDisplayOff widx)

/-- DCS display_on (R167). -/
def execDcsDisplayOn (widx : BitVec 2) (s : State) : Host.Outcome State Fault Refusal :=
  .next (s.dcs .setDisplayOn widx)

end Sys2Proof.Machine
end

