-- ==== Sys2Proof/Machine/Lifecycle.lean ====
section
/-! DEFINITION. The four lifecycle operations as the host issues them by a write to CMD: PREPARE, ENABLE, DISABLE, UNPREPARE
(R115 to R134). What follows the acceptance is the micro-program. -/

namespace Sys2Proof.Machine

/-- PREPARE (R115): from Unpowered; otherwise StateError. -/
def execPrepare (s : State) : Host.Outcome State Fault Refusal :=
  s.accept .prepare fun s => s.start .prepare

/-- ENABLE (R120): from Resetting; otherwise StateError. A retry runs the whole program again (R124). -/
def execEnable (s : State) : Host.Outcome State Fault Refusal :=
  s.accept .enable fun s => s.start .enable

/-- DISABLE (R125): from Active; otherwise StateError. -/
def execDisable (s : State) : Host.Outcome State Fault Refusal :=
  s.accept .disable fun s => s.start .disable

/-- UNPREPARE in Unpowered with `noop`: WARN cleared, RESULT Ok, no hardware action (R131). -/
def State.unprepareNoop (s : State) : State :=
  State.emit (State.emit { s with warn := 0#4, result := .ok } (.accept .unprepare)) (.done .unprepare .ok)

/-- UNPREPARE (R130), legal in every state; in Unpowered as the parameter says (R131). -/
def execUnprepare (s : State) : Host.Outcome State Fault Refusal :=
  s.accept .unprepare fun s =>
    if s.lifeState = .unpowered ∧ s.cfg.unprepareWhenUnpowered = .noop then s.unprepareNoop
    else s.start .unprepare

end Sys2Proof.Machine
end

