-- ==== Sys2Proof/Machine/Modes.lean ====
section
/-! DEFINITION. GET_MODES, the mode exposure (R190 to R199). -/

namespace Sys2Proof.Machine

/-- The copy is delivered: the MO and DI registers hold the mode of the configuration ROM (R195, R197). -/
def State.modesDelivered (s : State) : State :=
  State.emit (State.emit { s with bank := ModeBank.ofConfig s.cfg, result := .ok } (.accept .getModes)) (.done .getModes .ok)

/-- The host's environment cannot allocate the copy: AllocationError, and nothing else changes (R195, R196). -/
def State.modesFailed (s : State) : State :=
  State.emit (State.emit { s with result := .allocationError } (.accept .getModes)) (.done .getModes .allocationError)

/-- GET_MODES (R195): legal in every state, done in one step; the allocation draw decides (R196). -/
def execGetModes (s : State) : Host.Outcome State Fault Refusal :=
  s.accept .getModes fun s =>
    match s.draw.alloc with
    | .ok => s.modesDelivered
    | .err => s.modesFailed

end Sys2Proof.Machine
end

