-- ==== Sys2Proof/Machine/Power.lean ====
section
/-! DEFINITION. The power and reset micro-ops, RAIL and RST (R152 to R155). -/

namespace Sys2Proof.Machine

/-- RAIL (R152): the request is issued once; with no answer it waits (R233); a failure raises PowerError when FATAL, and else
records it in PEND and goes on. -/
def execRail (fatal en : Bool) (s : State) : Host.Outcome State Fault Refusal :=
  let s := s.issueRail en
  .next (match s.draw.resp with
    | none => s
    | some .ok => (s.answered (.rail en .ok)).complete
    | some .err =>
      let s := s.answered (.rail en .err)
      if fatal then s.raise .powerError else State.complete { s with pend := .powerError })

/-- RST (R154). -/
def execRst (level : Level) (s : State) : Host.Outcome State Fault Refusal :=
  .next (s.drive level).complete

end Sys2Proof.Machine
end

