-- ==== Sys2Proof/Machine/Replay.lean ====
section
/-! DEFINITION. The command-table replay, REPLAY (R160 to R162). -/

namespace Sys2Proof.Machine

/-- The loop's counters after a successful write (R160): RI and REC_IDX advance by one. -/
def State.countRecord (s : State) : State :=
  { s with ri := s.ri + 1, recIdx := BitVec.ofNat 16 (s.ri + 1), phase := .begun }

/-- One turn of the loop for record RI with the bytes read (R160): the write is issued once; with no answer it waits; the
first Err raises TransportError. -/
def State.replayRecord (s : State) (b0 b1 : Byte) : State :=
  let s := s.issue (.write s.ri b0 b1)
  match s.draw.resp with
  | none => s
  | some .ok => (s.answered (.write s.ri b0 b1 .ok)).countRecord
  | some .err => (s.answered (.write s.ri b0 b1 .err)).raise .transportError

/-- REPLAY (R160). Its first step clears REC_IDX and RI; then each record is written in table order (R63), a step or more for
each, and the step that finds `RI = N_REC` completes. -/
def execReplay (s : State) : Host.Outcome State Fault Refusal :=
  match s.phase with
  | .fresh => .next { s with recIdx := 0#16, ri := 0, phase := .begun }
  | .begun | .awaiting _ _ =>
    if s.ri < s.cfg.nRec.toNat then
      match tableRead s.cfg s.ri with
      | some (b0, b1) => .next (s.replayRecord b0 b1)
      | none => .refused (.tableAddress (2 * s.ri))
    else .next s.complete

end Sys2Proof.Machine
end

