-- ==== Sys2Proof/Machine/Timing.lean ====
section
/-! DEFINITION. The timing gate, WAIT (R156, R157). -/

namespace Sys2Proof.Machine

/-- The WAIT begins when the previous micro-op completed, or at acceptance (R156): T0 takes that time, once. -/
def State.beginWait (s : State) : State :=
  { s with t0 := if s.phase = .begun then s.t0 else s.lastDone, phase := .begun }

/-- WAIT (R156): the gate opens when `now >= T0 + 1000*MS`; until then it waits. -/
def execWait (ms : BitVec 12) (s : State) : Host.Outcome State Fault Refusal :=
  let s := s.beginWait
  .next (if s.t0 + gateMicros ms ≤ s.now then s.complete else s)

end Sys2Proof.Machine
end

