-- ==== Sys2Proof/Machine/Dispatch.lean ====
section
/-! DEFINITION. One arm for each instruction. -/

namespace Sys2Proof.Machine

def exec (i : Instr) (s : State) : Host.Outcome State Fault Refusal :=
  match i with
  | .prepare => Sys2Proof.Machine.execPrepare s
  | .enable => Sys2Proof.Machine.execEnable s
  | .disable => Sys2Proof.Machine.execDisable s
  | .unprepare => Sys2Proof.Machine.execUnprepare s
  | .getModes => Sys2Proof.Machine.execGetModes s
  | .endProgram => Sys2Proof.Machine.execEndProgram s
  | .rail fatal en => Sys2Proof.Machine.execRail fatal en s
  | .rst level => Sys2Proof.Machine.execRst level s
  | .wait ms => Sys2Proof.Machine.execWait ms s
  | .replay => Sys2Proof.Machine.execReplay s
  | .dcsEnterSleep widx => Sys2Proof.Machine.execDcsEnterSleep widx s
  | .dcsExitSleep widx => Sys2Proof.Machine.execDcsExitSleep widx s
  | .dcsDisplayOff widx => Sys2Proof.Machine.execDcsDisplayOff widx s
  | .dcsDisplayOn widx => Sys2Proof.Machine.execDcsDisplayOn widx s
  | .setst c => Sys2Proof.Machine.execSetst c s

end Sys2Proof.Machine
end

