-- ==== Sys2Proof/Machine/HostPort.lean ====
section
/-! DEFINITION. What the host does at the block's ports: register reads and writes (R22 to R24, R35, R38, R223), attach
(R250) and detach (R252). -/

namespace Sys2Proof.Machine

/-- The value of a mapped register (R23). CMD reads as 0 (R24). -/
def readReg (s : State) : HostReg → HostWord
  | .cmd => 0#32
  | .status => statusWord s
  | .result => resultWord s
  | .warn => warnWord s
  | .recIdx => recIdxWord s
  | .cfgNrec => cfgNrecWord s.cfg
  | .cfgLink => cfgLinkWord s.cfg
  | .bank r => (s.bank.get r).value

/-- Whether a mapped register is an MO or DI register that nothing has written yet (R23). -/
def State.unwritten (s : State) : HostReg → Bool
  | .bank r => !(s.bank.get r).written
  | .cmd | .status | .result | .warn | .recIdx | .cfgNrec | .cfgLink => false

/-- The read of a mapped register returns its value and has no side effect on the block (R22); the read of an unwritten one is
the model's fault: it marks the state (R23, U12, log 3). -/
def State.reading (s : State) (n : Nat) (r : HostReg) : State :=
  { s with readFault := s.unwritten r || s.readFault, readData := some (n, readReg s r) }

/-- A host read of register `n` of a live instance (R22). An unmapped number is a protocol violation and returns 0 (R38). -/
def hostRead (n : Nat) (s : State) : Host.Outcome State Fault Refusal :=
  match HostReg.ofNum n with
  | none => .next { s.violate with readData := some (n, 0#32) }
  | some r => .next (s.reading n r)

/-- A host write of register `n` of a live instance. A write to CMD issues the operation its word spells, and one that spells
none is a protocol violation (R24, R110, R223 b, c); the MO and DI registers are stored (R35); a write to a read-only or
unmapped register is a protocol violation (R38, R223 d, e). -/
def hostWrite (n : Nat) (v : HostWord) (s : State) : Host.Outcome State Fault Refusal :=
  match HostReg.ofNum n with
  | some .cmd =>
    match decodeHost v with
    | .ok i => exec i s
    | .error _ => .next s.violate
  | some (.bank r) => .next { s with bank := s.bank.set v r }
  | some .status | some .result | some .warn | some .recIdx | some .cfgNrec | some .cfgLink => .next s.violate
  | none => .next s.violate

/-- The configuration lookup (R250, R253). -/
def lookup (registry : List (CompatKey × PanelConfig)) (key : CompatKey) : Option PanelConfig :=
  (registry.find? fun e => decide (e.1 = key)).map (·.2)

/-- A fresh instance with the found PanelConfig (R250): every register at its reset value (R39). The environment, the ROM and
the registry stay as they are, and the new instance's trace is empty (log 11). -/
def State.create (s : State) (c : PanelConfig) : State :=
  { State.reset with
    cfg := c
    urom := s.urom
    lastDone := s.now
    readData := s.readData
    now := s.now
    draw := s.draw
    inputs := s.inputs
    tick := s.tick
    registry := s.registry }

/-- Attach (R250): NotFound creates nothing. The spec has no attach to a live instance (log 14). -/
def attach (key : CompatKey) (s : State) : Host.Outcome State Fault Refusal :=
  if s.live then .refused .attachWhileLive
  else
    match lookup s.registry key with
    | none => .next { s with attachResult := .notFound }
    | some c => .next (s.create c)

/-- Detach is asked for (R252); `State.settleDetach` carries it out. With no instance nothing happens (R223 f). -/
def detach (s : State) : Host.Outcome State Fault Refusal :=
  if s.live then
    if s.detaching then .refused .detachWhileDetaching else .next { s with detaching := true }
  else .next s

/-- The host's turn. While INSTANCE_LIVE is false no register exists and an access does nothing (R37, R223 f). DESIGN CHOICE
(log 1): such an access leaves no fault mark, so an instance attached later starts unfaulted. -/
def hostAccess (a : HostAccess) (s : State) : Host.Outcome State Fault Refusal :=
  match a with
  | .read n => if s.live then hostRead n s else .next s
  | .write n v => if s.live then hostWrite n v s else .next s
  | .attach key => attach key s
  | .detach => detach s

end Sys2Proof.Machine
end

