-- ==== Sys2Proof/Machine/Sequencer.lean ====
section
/-! DEFINITION. The turn: the environment's input arrives, then the host acts or the sequencer runs one step of the micro-op at
UPC (R150), and a waiting detach goes on when the block is idle (R252). -/

namespace Sys2Proof.Machine

/-- The environment's part of the coming step: the next listed input, else the free input (log 4). -/
def State.nextInput (s : State) : Input :=
  match s.inputs with
  | i :: _ => i
  | [] => Config.freeInput s.tick

/-- The input arrives: time moves on (R234) and the step's draws are there. -/
def State.arrive (s : State) : State :=
  { s with
    now := s.now + s.nextInput.dt
    draw := ⟨s.nextInput.resp, s.nextInput.alloc⟩
    inputs := s.inputs.tail
    tick := s.tick + 1 }

/-- The sequencer's step (R150): fetch, decode, execute. -/
def runMicroOp (s : State) : Host.Outcome State Fault Refusal :=
  match s.fetch with
  | none => .refused .noMicroOp
  | some w =>
    match decodeUop w with
    | .error _ => .refused (.illegalMicroOp w)
    | .ok i => exec i s

/-- The instance is destroyed (R252): no register can be reached any more (R37). -/
def State.destroy (s : State) : State := { s with live := false, detaching := false }

/-- A waiting detach, once BUSY is 0 (R252): UNPREPARE's micro-program first, unless STATE is Unpowered; then the end of the
instance. -/
def State.settleDetach (s : State) : State :=
  if s.detaching ∧ ¬ s.busy then
    if s.lifeState = .unpowered then s.destroy else s.enter .unprepare
  else s

/-- What follows the host's or the sequencer's part of a step. -/
def afterTurn : Host.Outcome State Fault Refusal → Host.Outcome State Fault Refusal
  | .next s => .next s.settleDetach
  | .fault r => .fault r
  | .refused r => .refused r

/-- One turn in a state whose input has arrived: the host's, if it acts; else the sequencer's while BUSY (R150); else the block
is idle with all registers held (R238). DESIGN CHOICE (log 4): an answer is taken in a sequencer's turn only, so one drawn in the
host's turn is discarded, and an outstanding request goes on waiting for the answer of a later turn. -/
def takeTurn (host : Option HostAccess) (s : State) : Host.Outcome State Fault Refusal :=
  match host with
  | some a => afterTurn (hostAccess a s)
  | none => if s.live ∧ s.busy then afterTurn (runMicroOp s) else .next s

/-! ## Placing an instruction to be fetched next (log 16) -/

/-- A program with word `w` at index `k`, lengthened with END words where it is too short. -/
def putWord (p : List UopWord) (k : Nat) (w : UopWord) : List UopWord :=
  (p ++ List.replicate (k + 1 - p.length) 0#16).set k w

/-- The micro-program ROM with `w` at (op, k). GET_MODES has no program (R90). -/
def MicroRom.put (m : MicroRom) (op : HostOp) (k : Nat) (w : UopWord) : MicroRom :=
  match op with
  | .prepare => { m with prepare := putWord m.prepare k w }
  | .enable => { m with enable := putWord m.enable k w }
  | .disable => { m with disable := putWord m.disable k w }
  | .unprepare => { m with unprepare := putWord m.unprepare k w }
  | .getModes => m

/-- The operation whose program is fetched from: CUR_OP, or PREPARE where CUR_OP names no program. -/
def State.fetchOp (s : State) : HostOp :=
  match s.curOp with
  | some .enable => .enable
  | some .disable => .disable
  | some .unprepare => .unprepare
  | some .prepare | some .getModes | none => .prepare

/-- The next turn is the host's write of `v` to CMD. -/
def State.placeHostWord (s : State) (v : HostWord) : State :=
  { s with live := true, inputs := ⟨0, some (.write 0x00 v), none, .ok⟩ :: s.inputs }

/-- The next turn is the sequencer's, at a word `w`; a request it makes is answered Ok in that turn. -/
def State.placeUopWord (s : State) (w : UopWord) : State :=
  { s with
    live := true
    busy := true
    curOp := some s.fetchOp
    phase := .fresh
    urom := s.urom.put s.fetchOp s.upc w
    inputs := ⟨0, none, some .ok, .ok⟩ :: s.inputs }

end Sys2Proof.Machine
end

