-- ==== Sys2Proof/Machine/Step.lean ====
section
/-! DEFINITION. One step of the machine, and the placing of an instruction to be run by the next one. -/

namespace Sys2Proof.Machine

/-- One step: the environment's input arrives and its turn is taken. -/
def step (s : State) : Host.Outcome State Fault Refusal := takeTurn s.nextInput.host s.arrive

/-- `s` with the instruction `w` where the next step takes it from: a 32-bit HOSTCMD word as the host's next write to CMD, a
16-bit micro-op word in the micro-program ROM at (CUR_OP, UPC) (log 16). -/
def State.withFetchWord (s : State) (nbits w : Nat) : State :=
  if nbits = 32 then s.placeHostWord (BitVec.ofNat 32 w) else s.placeUopWord (BitVec.ofNat 16 w)

end Sys2Proof.Machine
end

