-- ==== Sys2Proof/Laws/Decode.lean ====
section
/-! SUPPORT. Laws of the decoders: a host word decodes to a host operation, and the words of the fixed ROM to the micro-ops of
R90. -/

namespace Sys2Proof

/-- A host word decodes to one of the five host operations (R81). -/
theorem decodeHost_cases (w : HostWord) (i : Instr) (h : decodeHost w = .ok i) :
    i = .prepare ∨ i = .enable ∨ i = .disable ∨ i = .unprepare ∨ i = .getModes := by
  unfold decodeHost at h
  split at h
  · simp only at h
    split at h
    · simp_all
    · split at h
      · simp_all
      · split at h
        · simp_all
        · split at h
          · simp_all
          · split at h <;> simp_all
  · cases h

theorem decodeUop_1003 : decodeUop 0x1003#16 = .ok (.rail true true) := by decide
theorem decodeUop_2000 : decodeUop 0x2000#16 = .ok (.rst .low) := by decide
theorem decodeUop_3078 : decodeUop 0x3078#16 = .ok (.wait 120#12) := by decide
theorem decodeUop_2001 : decodeUop 0x2001#16 = .ok (.rst .high) := by decide
theorem decodeUop_6001 : decodeUop 0x6001#16 = .ok (.setst 1#3) := by decide
theorem decodeUop_0000 : decodeUop 0x0000#16 = .ok .endProgram := by decide
theorem decodeUop_300A : decodeUop 0x300A#16 = .ok (.wait 10#12) := by decide
theorem decodeUop_4000 : decodeUop 0x4000#16 = .ok .replay := by decide
theorem decodeUop_6002 : decodeUop 0x6002#16 = .ok (.setst 2#3) := by decide
theorem decodeUop_5011 : decodeUop 0x5011#16 = .ok (.dcsExitSleep 0#2) := by decide
theorem decodeUop_5129 : decodeUop 0x5129#16 = .ok (.dcsDisplayOn 1#2) := by decide
theorem decodeUop_6003 : decodeUop 0x6003#16 = .ok (.setst 3#3) := by decide
theorem decodeUop_5228 : decodeUop 0x5228#16 = .ok (.dcsDisplayOff 2#2) := by decide
theorem decodeUop_5310 : decodeUop 0x5310#16 = .ok (.dcsEnterSleep 3#2) := by decide
theorem decodeUop_6004 : decodeUop 0x6004#16 = .ok (.setst 4#3) := by decide
theorem decodeUop_1000 : decodeUop 0x1000#16 = .ok (.rail false false) := by decide
theorem decodeUop_6000 : decodeUop 0x6000#16 = .ok (.setst 0#3) := by decide

end Sys2Proof
end

