-- ==== Sys2Proof/Laws/State.lean ====
section
/-! SUPPORT. For each update of State, what each field is after it: one lemma a field. -/

namespace Sys2Proof.Machine

/-! ### State.emitFrom -/

@[simp] theorem State.emitFrom_cfg (s : State) (ts : Nat) (k : EventKind) : (s.emitFrom ts k).cfg = s.cfg := rfl
@[simp] theorem State.emitFrom_urom (s : State) (ts : Nat) (k : EventKind) : (s.emitFrom ts k).urom = s.urom := rfl
@[simp] theorem State.emitFrom_live (s : State) (ts : Nat) (k : EventKind) : (s.emitFrom ts k).live = s.live := rfl
@[simp] theorem State.emitFrom_lifeState (s : State) (ts : Nat) (k : EventKind) : (s.emitFrom ts k).lifeState = s.lifeState := rfl
@[simp] theorem State.emitFrom_busy (s : State) (ts : Nat) (k : EventKind) : (s.emitFrom ts k).busy = s.busy := rfl
@[simp] theorem State.emitFrom_protoFault (s : State) (ts : Nat) (k : EventKind) : (s.emitFrom ts k).protoFault =
    s.protoFault := rfl
@[simp] theorem State.emitFrom_readFault (s : State) (ts : Nat) (k : EventKind) : (s.emitFrom ts k).readFault = s.readFault := rfl
@[simp] theorem State.emitFrom_result (s : State) (ts : Nat) (k : EventKind) : (s.emitFrom ts k).result = s.result := rfl
@[simp] theorem State.emitFrom_warn (s : State) (ts : Nat) (k : EventKind) : (s.emitFrom ts k).warn = s.warn := rfl
@[simp] theorem State.emitFrom_recIdx (s : State) (ts : Nat) (k : EventKind) : (s.emitFrom ts k).recIdx = s.recIdx := rfl
@[simp] theorem State.emitFrom_bank (s : State) (ts : Nat) (k : EventKind) : (s.emitFrom ts k).bank = s.bank := rfl
@[simp] theorem State.emitFrom_railReq (s : State) (ts : Nat) (k : EventKind) : (s.emitFrom ts k).railReq = s.railReq := rfl
@[simp] theorem State.emitFrom_resetN (s : State) (ts : Nat) (k : EventKind) : (s.emitFrom ts k).resetN = s.resetN := rfl
@[simp] theorem State.emitFrom_curOp (s : State) (ts : Nat) (k : EventKind) : (s.emitFrom ts k).curOp = s.curOp := rfl
@[simp] theorem State.emitFrom_upc (s : State) (ts : Nat) (k : EventKind) : (s.emitFrom ts k).upc = s.upc := rfl
@[simp] theorem State.emitFrom_pend (s : State) (ts : Nat) (k : EventKind) : (s.emitFrom ts k).pend = s.pend := rfl
@[simp] theorem State.emitFrom_t0 (s : State) (ts : Nat) (k : EventKind) : (s.emitFrom ts k).t0 = s.t0 := rfl
@[simp] theorem State.emitFrom_ri (s : State) (ts : Nat) (k : EventKind) : (s.emitFrom ts k).ri = s.ri := rfl
@[simp] theorem State.emitFrom_phase (s : State) (ts : Nat) (k : EventKind) : (s.emitFrom ts k).phase = s.phase := rfl
@[simp] theorem State.emitFrom_lastDone (s : State) (ts : Nat) (k : EventKind) : (s.emitFrom ts k).lastDone = s.lastDone := rfl
@[simp] theorem State.emitFrom_detaching (s : State) (ts : Nat) (k : EventKind) : (s.emitFrom ts k).detaching = s.detaching := rfl
@[simp] theorem State.emitFrom_attachResult (s : State) (ts : Nat) (k : EventKind) : (s.emitFrom ts k).attachResult =
    s.attachResult := rfl
@[simp] theorem State.emitFrom_readData (s : State) (ts : Nat) (k : EventKind) : (s.emitFrom ts k).readData = s.readData := rfl
@[simp] theorem State.emitFrom_trace (s : State) (ts : Nat) (k : EventKind) : (s.emitFrom ts k).trace =
    ⟨k, ts, s.now⟩ :: s.trace := rfl
@[simp] theorem State.emitFrom_now (s : State) (ts : Nat) (k : EventKind) : (s.emitFrom ts k).now = s.now := rfl
@[simp] theorem State.emitFrom_draw (s : State) (ts : Nat) (k : EventKind) : (s.emitFrom ts k).draw = s.draw := rfl
@[simp] theorem State.emitFrom_inputs (s : State) (ts : Nat) (k : EventKind) : (s.emitFrom ts k).inputs = s.inputs := rfl
@[simp] theorem State.emitFrom_tick (s : State) (ts : Nat) (k : EventKind) : (s.emitFrom ts k).tick = s.tick := rfl
@[simp] theorem State.emitFrom_registry (s : State) (ts : Nat) (k : EventKind) : (s.emitFrom ts k).registry = s.registry := rfl

/-! ### State.emit -/

@[simp] theorem State.emit_cfg (s : State) (k : EventKind) : (s.emit k).cfg = s.cfg := rfl
@[simp] theorem State.emit_urom (s : State) (k : EventKind) : (s.emit k).urom = s.urom := rfl
@[simp] theorem State.emit_live (s : State) (k : EventKind) : (s.emit k).live = s.live := rfl
@[simp] theorem State.emit_lifeState (s : State) (k : EventKind) : (s.emit k).lifeState = s.lifeState := rfl
@[simp] theorem State.emit_busy (s : State) (k : EventKind) : (s.emit k).busy = s.busy := rfl
@[simp] theorem State.emit_protoFault (s : State) (k : EventKind) : (s.emit k).protoFault = s.protoFault := rfl
@[simp] theorem State.emit_readFault (s : State) (k : EventKind) : (s.emit k).readFault = s.readFault := rfl
@[simp] theorem State.emit_result (s : State) (k : EventKind) : (s.emit k).result = s.result := rfl
@[simp] theorem State.emit_warn (s : State) (k : EventKind) : (s.emit k).warn = s.warn := rfl
@[simp] theorem State.emit_recIdx (s : State) (k : EventKind) : (s.emit k).recIdx = s.recIdx := rfl
@[simp] theorem State.emit_bank (s : State) (k : EventKind) : (s.emit k).bank = s.bank := rfl
@[simp] theorem State.emit_railReq (s : State) (k : EventKind) : (s.emit k).railReq = s.railReq := rfl
@[simp] theorem State.emit_resetN (s : State) (k : EventKind) : (s.emit k).resetN = s.resetN := rfl
@[simp] theorem State.emit_curOp (s : State) (k : EventKind) : (s.emit k).curOp = s.curOp := rfl
@[simp] theorem State.emit_upc (s : State) (k : EventKind) : (s.emit k).upc = s.upc := rfl
@[simp] theorem State.emit_pend (s : State) (k : EventKind) : (s.emit k).pend = s.pend := rfl
@[simp] theorem State.emit_t0 (s : State) (k : EventKind) : (s.emit k).t0 = s.t0 := rfl
@[simp] theorem State.emit_ri (s : State) (k : EventKind) : (s.emit k).ri = s.ri := rfl
@[simp] theorem State.emit_phase (s : State) (k : EventKind) : (s.emit k).phase = s.phase := rfl
@[simp] theorem State.emit_lastDone (s : State) (k : EventKind) : (s.emit k).lastDone = s.lastDone := rfl
@[simp] theorem State.emit_detaching (s : State) (k : EventKind) : (s.emit k).detaching = s.detaching := rfl
@[simp] theorem State.emit_attachResult (s : State) (k : EventKind) : (s.emit k).attachResult = s.attachResult := rfl
@[simp] theorem State.emit_readData (s : State) (k : EventKind) : (s.emit k).readData = s.readData := rfl
@[simp] theorem State.emit_trace (s : State) (k : EventKind) : (s.emit k).trace = ⟨k, s.now, s.now⟩ :: s.trace := rfl
@[simp] theorem State.emit_now (s : State) (k : EventKind) : (s.emit k).now = s.now := rfl
@[simp] theorem State.emit_draw (s : State) (k : EventKind) : (s.emit k).draw = s.draw := rfl
@[simp] theorem State.emit_inputs (s : State) (k : EventKind) : (s.emit k).inputs = s.inputs := rfl
@[simp] theorem State.emit_tick (s : State) (k : EventKind) : (s.emit k).tick = s.tick := rfl
@[simp] theorem State.emit_registry (s : State) (k : EventKind) : (s.emit k).registry = s.registry := rfl

/-! ### State.answered -/

@[simp] theorem State.answered_cfg (s : State) (k : EventKind) : (s.answered k).cfg = s.cfg := rfl
@[simp] theorem State.answered_urom (s : State) (k : EventKind) : (s.answered k).urom = s.urom := rfl
@[simp] theorem State.answered_live (s : State) (k : EventKind) : (s.answered k).live = s.live := rfl
@[simp] theorem State.answered_lifeState (s : State) (k : EventKind) : (s.answered k).lifeState = s.lifeState := rfl
@[simp] theorem State.answered_busy (s : State) (k : EventKind) : (s.answered k).busy = s.busy := rfl
@[simp] theorem State.answered_protoFault (s : State) (k : EventKind) : (s.answered k).protoFault = s.protoFault := rfl
@[simp] theorem State.answered_readFault (s : State) (k : EventKind) : (s.answered k).readFault = s.readFault := rfl
@[simp] theorem State.answered_result (s : State) (k : EventKind) : (s.answered k).result = s.result := rfl
@[simp] theorem State.answered_warn (s : State) (k : EventKind) : (s.answered k).warn = s.warn := rfl
@[simp] theorem State.answered_recIdx (s : State) (k : EventKind) : (s.answered k).recIdx = s.recIdx := rfl
@[simp] theorem State.answered_bank (s : State) (k : EventKind) : (s.answered k).bank = s.bank := rfl
@[simp] theorem State.answered_railReq (s : State) (k : EventKind) : (s.answered k).railReq = s.railReq := rfl
@[simp] theorem State.answered_resetN (s : State) (k : EventKind) : (s.answered k).resetN = s.resetN := rfl
@[simp] theorem State.answered_curOp (s : State) (k : EventKind) : (s.answered k).curOp = s.curOp := rfl
@[simp] theorem State.answered_upc (s : State) (k : EventKind) : (s.answered k).upc = s.upc := rfl
@[simp] theorem State.answered_pend (s : State) (k : EventKind) : (s.answered k).pend = s.pend := rfl
@[simp] theorem State.answered_t0 (s : State) (k : EventKind) : (s.answered k).t0 = s.t0 := rfl
@[simp] theorem State.answered_ri (s : State) (k : EventKind) : (s.answered k).ri = s.ri := rfl
@[simp] theorem State.answered_phase (s : State) (k : EventKind) : (s.answered k).phase = s.phase := rfl
@[simp] theorem State.answered_lastDone (s : State) (k : EventKind) : (s.answered k).lastDone = s.lastDone := rfl
@[simp] theorem State.answered_detaching (s : State) (k : EventKind) : (s.answered k).detaching = s.detaching := rfl
@[simp] theorem State.answered_attachResult (s : State) (k : EventKind) : (s.answered k).attachResult = s.attachResult := rfl
@[simp] theorem State.answered_readData (s : State) (k : EventKind) : (s.answered k).readData = s.readData := rfl
@[simp] theorem State.answered_trace (s : State) (k : EventKind) : (s.answered k).trace =
    ⟨k, s.issueTime, s.now⟩ :: s.trace := rfl
@[simp] theorem State.answered_now (s : State) (k : EventKind) : (s.answered k).now = s.now := rfl
@[simp] theorem State.answered_draw (s : State) (k : EventKind) : (s.answered k).draw = s.draw := rfl
@[simp] theorem State.answered_inputs (s : State) (k : EventKind) : (s.answered k).inputs = s.inputs := rfl
@[simp] theorem State.answered_tick (s : State) (k : EventKind) : (s.answered k).tick = s.tick := rfl
@[simp] theorem State.answered_registry (s : State) (k : EventKind) : (s.answered k).registry = s.registry := rfl

/-! ### State.issue -/

@[simp] theorem State.issue_cfg (s : State) (req : Request) : (s.issue req).cfg = s.cfg := rfl
@[simp] theorem State.issue_urom (s : State) (req : Request) : (s.issue req).urom = s.urom := rfl
@[simp] theorem State.issue_live (s : State) (req : Request) : (s.issue req).live = s.live := rfl
@[simp] theorem State.issue_lifeState (s : State) (req : Request) : (s.issue req).lifeState = s.lifeState := rfl
@[simp] theorem State.issue_busy (s : State) (req : Request) : (s.issue req).busy = s.busy := rfl
@[simp] theorem State.issue_protoFault (s : State) (req : Request) : (s.issue req).protoFault = s.protoFault := rfl
@[simp] theorem State.issue_readFault (s : State) (req : Request) : (s.issue req).readFault = s.readFault := rfl
@[simp] theorem State.issue_result (s : State) (req : Request) : (s.issue req).result = s.result := rfl
@[simp] theorem State.issue_warn (s : State) (req : Request) : (s.issue req).warn = s.warn := rfl
@[simp] theorem State.issue_recIdx (s : State) (req : Request) : (s.issue req).recIdx = s.recIdx := rfl
@[simp] theorem State.issue_bank (s : State) (req : Request) : (s.issue req).bank = s.bank := rfl
@[simp] theorem State.issue_railReq (s : State) (req : Request) : (s.issue req).railReq = s.railReq := rfl
@[simp] theorem State.issue_resetN (s : State) (req : Request) : (s.issue req).resetN = s.resetN := rfl
@[simp] theorem State.issue_curOp (s : State) (req : Request) : (s.issue req).curOp = s.curOp := rfl
@[simp] theorem State.issue_upc (s : State) (req : Request) : (s.issue req).upc = s.upc := rfl
@[simp] theorem State.issue_pend (s : State) (req : Request) : (s.issue req).pend = s.pend := rfl
@[simp] theorem State.issue_t0 (s : State) (req : Request) : (s.issue req).t0 = s.t0 := rfl
@[simp] theorem State.issue_ri (s : State) (req : Request) : (s.issue req).ri = s.ri := rfl
@[simp] theorem State.issue_phase (s : State) (req : Request) : (s.issue req).phase = s.phase.request req s.now := rfl
@[simp] theorem State.issue_lastDone (s : State) (req : Request) : (s.issue req).lastDone = s.lastDone := rfl
@[simp] theorem State.issue_detaching (s : State) (req : Request) : (s.issue req).detaching = s.detaching := rfl
@[simp] theorem State.issue_attachResult (s : State) (req : Request) : (s.issue req).attachResult = s.attachResult := rfl
@[simp] theorem State.issue_readData (s : State) (req : Request) : (s.issue req).readData = s.readData := rfl
@[simp] theorem State.issue_trace (s : State) (req : Request) : (s.issue req).trace = s.trace := rfl
@[simp] theorem State.issue_now (s : State) (req : Request) : (s.issue req).now = s.now := rfl
@[simp] theorem State.issue_draw (s : State) (req : Request) : (s.issue req).draw = s.draw := rfl
@[simp] theorem State.issue_inputs (s : State) (req : Request) : (s.issue req).inputs = s.inputs := rfl
@[simp] theorem State.issue_tick (s : State) (req : Request) : (s.issue req).tick = s.tick := rfl
@[simp] theorem State.issue_registry (s : State) (req : Request) : (s.issue req).registry = s.registry := rfl

/-! ### State.issueRail -/

@[simp] theorem State.issueRail_cfg (s : State) (en : Bool) : (s.issueRail en).cfg = s.cfg := rfl
@[simp] theorem State.issueRail_urom (s : State) (en : Bool) : (s.issueRail en).urom = s.urom := rfl
@[simp] theorem State.issueRail_live (s : State) (en : Bool) : (s.issueRail en).live = s.live := rfl
@[simp] theorem State.issueRail_lifeState (s : State) (en : Bool) : (s.issueRail en).lifeState = s.lifeState := rfl
@[simp] theorem State.issueRail_busy (s : State) (en : Bool) : (s.issueRail en).busy = s.busy := rfl
@[simp] theorem State.issueRail_protoFault (s : State) (en : Bool) : (s.issueRail en).protoFault = s.protoFault := rfl
@[simp] theorem State.issueRail_readFault (s : State) (en : Bool) : (s.issueRail en).readFault = s.readFault := rfl
@[simp] theorem State.issueRail_result (s : State) (en : Bool) : (s.issueRail en).result = s.result := rfl
@[simp] theorem State.issueRail_warn (s : State) (en : Bool) : (s.issueRail en).warn = s.warn := rfl
@[simp] theorem State.issueRail_recIdx (s : State) (en : Bool) : (s.issueRail en).recIdx = s.recIdx := rfl
@[simp] theorem State.issueRail_bank (s : State) (en : Bool) : (s.issueRail en).bank = s.bank := rfl
@[simp] theorem State.issueRail_railReq (s : State) (en : Bool) : (s.issueRail en).railReq =
    if s.requesting then s.railReq else RailReq.ofEn en := rfl
@[simp] theorem State.issueRail_resetN (s : State) (en : Bool) : (s.issueRail en).resetN = s.resetN := rfl
@[simp] theorem State.issueRail_curOp (s : State) (en : Bool) : (s.issueRail en).curOp = s.curOp := rfl
@[simp] theorem State.issueRail_upc (s : State) (en : Bool) : (s.issueRail en).upc = s.upc := rfl
@[simp] theorem State.issueRail_pend (s : State) (en : Bool) : (s.issueRail en).pend = s.pend := rfl
@[simp] theorem State.issueRail_t0 (s : State) (en : Bool) : (s.issueRail en).t0 = s.t0 := rfl
@[simp] theorem State.issueRail_ri (s : State) (en : Bool) : (s.issueRail en).ri = s.ri := rfl
@[simp] theorem State.issueRail_phase (s : State) (en : Bool) : (s.issueRail en).phase =
    s.phase.request (.setRail en) s.now := rfl
@[simp] theorem State.issueRail_lastDone (s : State) (en : Bool) : (s.issueRail en).lastDone = s.lastDone := rfl
@[simp] theorem State.issueRail_detaching (s : State) (en : Bool) : (s.issueRail en).detaching = s.detaching := rfl
@[simp] theorem State.issueRail_attachResult (s : State) (en : Bool) : (s.issueRail en).attachResult = s.attachResult := rfl
@[simp] theorem State.issueRail_readData (s : State) (en : Bool) : (s.issueRail en).readData = s.readData := rfl
@[simp] theorem State.issueRail_trace (s : State) (en : Bool) : (s.issueRail en).trace = s.trace := rfl
@[simp] theorem State.issueRail_now (s : State) (en : Bool) : (s.issueRail en).now = s.now := rfl
@[simp] theorem State.issueRail_draw (s : State) (en : Bool) : (s.issueRail en).draw = s.draw := rfl
@[simp] theorem State.issueRail_inputs (s : State) (en : Bool) : (s.issueRail en).inputs = s.inputs := rfl
@[simp] theorem State.issueRail_tick (s : State) (en : Bool) : (s.issueRail en).tick = s.tick := rfl
@[simp] theorem State.issueRail_registry (s : State) (en : Bool) : (s.issueRail en).registry = s.registry := rfl

/-! ### State.drive -/

@[simp] theorem State.drive_cfg (s : State) (level : Level) : (s.drive level).cfg = s.cfg := rfl
@[simp] theorem State.drive_urom (s : State) (level : Level) : (s.drive level).urom = s.urom := rfl
@[simp] theorem State.drive_live (s : State) (level : Level) : (s.drive level).live = s.live := rfl
@[simp] theorem State.drive_lifeState (s : State) (level : Level) : (s.drive level).lifeState = s.lifeState := rfl
@[simp] theorem State.drive_busy (s : State) (level : Level) : (s.drive level).busy = s.busy := rfl
@[simp] theorem State.drive_protoFault (s : State) (level : Level) : (s.drive level).protoFault = s.protoFault := rfl
@[simp] theorem State.drive_readFault (s : State) (level : Level) : (s.drive level).readFault = s.readFault := rfl
@[simp] theorem State.drive_result (s : State) (level : Level) : (s.drive level).result = s.result := rfl
@[simp] theorem State.drive_warn (s : State) (level : Level) : (s.drive level).warn = s.warn := rfl
@[simp] theorem State.drive_recIdx (s : State) (level : Level) : (s.drive level).recIdx = s.recIdx := rfl
@[simp] theorem State.drive_bank (s : State) (level : Level) : (s.drive level).bank = s.bank := rfl
@[simp] theorem State.drive_railReq (s : State) (level : Level) : (s.drive level).railReq = s.railReq := rfl
@[simp] theorem State.drive_resetN (s : State) (level : Level) : (s.drive level).resetN = .driven level := rfl
@[simp] theorem State.drive_curOp (s : State) (level : Level) : (s.drive level).curOp = s.curOp := rfl
@[simp] theorem State.drive_upc (s : State) (level : Level) : (s.drive level).upc = s.upc := rfl
@[simp] theorem State.drive_pend (s : State) (level : Level) : (s.drive level).pend = s.pend := rfl
@[simp] theorem State.drive_t0 (s : State) (level : Level) : (s.drive level).t0 = s.t0 := rfl
@[simp] theorem State.drive_ri (s : State) (level : Level) : (s.drive level).ri = s.ri := rfl
@[simp] theorem State.drive_phase (s : State) (level : Level) : (s.drive level).phase = s.phase := rfl
@[simp] theorem State.drive_lastDone (s : State) (level : Level) : (s.drive level).lastDone = s.lastDone := rfl
@[simp] theorem State.drive_detaching (s : State) (level : Level) : (s.drive level).detaching = s.detaching := rfl
@[simp] theorem State.drive_attachResult (s : State) (level : Level) : (s.drive level).attachResult = s.attachResult := rfl
@[simp] theorem State.drive_readData (s : State) (level : Level) : (s.drive level).readData = s.readData := rfl
@[simp] theorem State.drive_trace (s : State) (level : Level) : (s.drive level).trace =
    ⟨.rst level, s.now, s.now⟩ :: s.trace := rfl
@[simp] theorem State.drive_now (s : State) (level : Level) : (s.drive level).now = s.now := rfl
@[simp] theorem State.drive_draw (s : State) (level : Level) : (s.drive level).draw = s.draw := rfl
@[simp] theorem State.drive_inputs (s : State) (level : Level) : (s.drive level).inputs = s.inputs := rfl
@[simp] theorem State.drive_tick (s : State) (level : Level) : (s.drive level).tick = s.tick := rfl
@[simp] theorem State.drive_registry (s : State) (level : Level) : (s.drive level).registry = s.registry := rfl

/-! ### State.complete -/

@[simp] theorem State.complete_cfg (s : State) : (s.complete).cfg = s.cfg := rfl
@[simp] theorem State.complete_urom (s : State) : (s.complete).urom = s.urom := rfl
@[simp] theorem State.complete_live (s : State) : (s.complete).live = s.live := rfl
@[simp] theorem State.complete_lifeState (s : State) : (s.complete).lifeState = s.lifeState := rfl
@[simp] theorem State.complete_busy (s : State) : (s.complete).busy = s.busy := rfl
@[simp] theorem State.complete_protoFault (s : State) : (s.complete).protoFault = s.protoFault := rfl
@[simp] theorem State.complete_readFault (s : State) : (s.complete).readFault = s.readFault := rfl
@[simp] theorem State.complete_result (s : State) : (s.complete).result = s.result := rfl
@[simp] theorem State.complete_warn (s : State) : (s.complete).warn = s.warn := rfl
@[simp] theorem State.complete_recIdx (s : State) : (s.complete).recIdx = s.recIdx := rfl
@[simp] theorem State.complete_bank (s : State) : (s.complete).bank = s.bank := rfl
@[simp] theorem State.complete_railReq (s : State) : (s.complete).railReq = s.railReq := rfl
@[simp] theorem State.complete_resetN (s : State) : (s.complete).resetN = s.resetN := rfl
@[simp] theorem State.complete_curOp (s : State) : (s.complete).curOp = s.curOp := rfl
@[simp] theorem State.complete_upc (s : State) : (s.complete).upc = s.upc + 1 := rfl
@[simp] theorem State.complete_pend (s : State) : (s.complete).pend = s.pend := rfl
@[simp] theorem State.complete_t0 (s : State) : (s.complete).t0 = s.t0 := rfl
@[simp] theorem State.complete_ri (s : State) : (s.complete).ri = s.ri := rfl
@[simp] theorem State.complete_phase (s : State) : (s.complete).phase = .fresh := rfl
@[simp] theorem State.complete_lastDone (s : State) : (s.complete).lastDone = s.now := rfl
@[simp] theorem State.complete_detaching (s : State) : (s.complete).detaching = s.detaching := rfl
@[simp] theorem State.complete_attachResult (s : State) : (s.complete).attachResult = s.attachResult := rfl
@[simp] theorem State.complete_readData (s : State) : (s.complete).readData = s.readData := rfl
@[simp] theorem State.complete_trace (s : State) : (s.complete).trace = s.trace := rfl
@[simp] theorem State.complete_now (s : State) : (s.complete).now = s.now := rfl
@[simp] theorem State.complete_draw (s : State) : (s.complete).draw = s.draw := rfl
@[simp] theorem State.complete_inputs (s : State) : (s.complete).inputs = s.inputs := rfl
@[simp] theorem State.complete_tick (s : State) : (s.complete).tick = s.tick := rfl
@[simp] theorem State.complete_registry (s : State) : (s.complete).registry = s.registry := rfl

/-! ### State.finish -/

@[simp] theorem State.finish_cfg (s : State) (r : ResultCode) : (s.finish r).cfg = s.cfg := rfl
@[simp] theorem State.finish_urom (s : State) (r : ResultCode) : (s.finish r).urom = s.urom := rfl
@[simp] theorem State.finish_live (s : State) (r : ResultCode) : (s.finish r).live = s.live := rfl
@[simp] theorem State.finish_lifeState (s : State) (r : ResultCode) : (s.finish r).lifeState = s.lifeState := rfl
@[simp] theorem State.finish_busy (s : State) (r : ResultCode) : (s.finish r).busy = false := rfl
@[simp] theorem State.finish_protoFault (s : State) (r : ResultCode) : (s.finish r).protoFault = s.protoFault := rfl
@[simp] theorem State.finish_readFault (s : State) (r : ResultCode) : (s.finish r).readFault = s.readFault := rfl
@[simp] theorem State.finish_result (s : State) (r : ResultCode) : (s.finish r).result = r := rfl
@[simp] theorem State.finish_warn (s : State) (r : ResultCode) : (s.finish r).warn = s.warn := rfl
@[simp] theorem State.finish_recIdx (s : State) (r : ResultCode) : (s.finish r).recIdx = s.recIdx := rfl
@[simp] theorem State.finish_bank (s : State) (r : ResultCode) : (s.finish r).bank = s.bank := rfl
@[simp] theorem State.finish_railReq (s : State) (r : ResultCode) : (s.finish r).railReq = s.railReq := rfl
@[simp] theorem State.finish_resetN (s : State) (r : ResultCode) : (s.finish r).resetN = s.resetN := rfl
@[simp] theorem State.finish_curOp (s : State) (r : ResultCode) : (s.finish r).curOp = s.curOp := rfl
@[simp] theorem State.finish_upc (s : State) (r : ResultCode) : (s.finish r).upc = s.upc := rfl
@[simp] theorem State.finish_pend (s : State) (r : ResultCode) : (s.finish r).pend = s.pend := rfl
@[simp] theorem State.finish_t0 (s : State) (r : ResultCode) : (s.finish r).t0 = s.t0 := rfl
@[simp] theorem State.finish_ri (s : State) (r : ResultCode) : (s.finish r).ri = s.ri := rfl
@[simp] theorem State.finish_phase (s : State) (r : ResultCode) : (s.finish r).phase = .fresh := rfl
@[simp] theorem State.finish_lastDone (s : State) (r : ResultCode) : (s.finish r).lastDone = s.lastDone := rfl
@[simp] theorem State.finish_detaching (s : State) (r : ResultCode) : (s.finish r).detaching = s.detaching := rfl
@[simp] theorem State.finish_attachResult (s : State) (r : ResultCode) : (s.finish r).attachResult = s.attachResult := rfl
@[simp] theorem State.finish_readData (s : State) (r : ResultCode) : (s.finish r).readData = s.readData := rfl
@[simp] theorem State.finish_trace (s : State) (r : ResultCode) : (s.finish r).trace = doneEvent s.curOp r s.now ++ s.trace := rfl
@[simp] theorem State.finish_now (s : State) (r : ResultCode) : (s.finish r).now = s.now := rfl
@[simp] theorem State.finish_draw (s : State) (r : ResultCode) : (s.finish r).draw = s.draw := rfl
@[simp] theorem State.finish_inputs (s : State) (r : ResultCode) : (s.finish r).inputs = s.inputs := rfl
@[simp] theorem State.finish_tick (s : State) (r : ResultCode) : (s.finish r).tick = s.tick := rfl
@[simp] theorem State.finish_registry (s : State) (r : ResultCode) : (s.finish r).registry = s.registry := rfl

/-! ### State.raise -/

@[simp] theorem State.raise_cfg (s : State) (e : ResultCode) : (s.raise e).cfg = s.cfg := rfl
@[simp] theorem State.raise_urom (s : State) (e : ResultCode) : (s.raise e).urom = s.urom := rfl
@[simp] theorem State.raise_live (s : State) (e : ResultCode) : (s.raise e).live = s.live := rfl
@[simp] theorem State.raise_lifeState (s : State) (e : ResultCode) : (s.raise e).lifeState = s.lifeState := rfl
@[simp] theorem State.raise_busy (s : State) (e : ResultCode) : (s.raise e).busy = false := rfl
@[simp] theorem State.raise_protoFault (s : State) (e : ResultCode) : (s.raise e).protoFault = s.protoFault := rfl
@[simp] theorem State.raise_readFault (s : State) (e : ResultCode) : (s.raise e).readFault = s.readFault := rfl
@[simp] theorem State.raise_result (s : State) (e : ResultCode) : (s.raise e).result = e := rfl
@[simp] theorem State.raise_warn (s : State) (e : ResultCode) : (s.raise e).warn = s.warn := rfl
@[simp] theorem State.raise_recIdx (s : State) (e : ResultCode) : (s.raise e).recIdx = s.recIdx := rfl
@[simp] theorem State.raise_bank (s : State) (e : ResultCode) : (s.raise e).bank = s.bank := rfl
@[simp] theorem State.raise_railReq (s : State) (e : ResultCode) : (s.raise e).railReq = s.railReq := rfl
@[simp] theorem State.raise_resetN (s : State) (e : ResultCode) : (s.raise e).resetN = s.resetN := rfl
@[simp] theorem State.raise_curOp (s : State) (e : ResultCode) : (s.raise e).curOp = s.curOp := rfl
@[simp] theorem State.raise_upc (s : State) (e : ResultCode) : (s.raise e).upc = s.upc := rfl
@[simp] theorem State.raise_pend (s : State) (e : ResultCode) : (s.raise e).pend = s.pend := rfl
@[simp] theorem State.raise_t0 (s : State) (e : ResultCode) : (s.raise e).t0 = s.t0 := rfl
@[simp] theorem State.raise_ri (s : State) (e : ResultCode) : (s.raise e).ri = s.ri := rfl
@[simp] theorem State.raise_phase (s : State) (e : ResultCode) : (s.raise e).phase = .fresh := rfl
@[simp] theorem State.raise_lastDone (s : State) (e : ResultCode) : (s.raise e).lastDone = s.lastDone := rfl
@[simp] theorem State.raise_detaching (s : State) (e : ResultCode) : (s.raise e).detaching = s.detaching := rfl
@[simp] theorem State.raise_attachResult (s : State) (e : ResultCode) : (s.raise e).attachResult = s.attachResult := rfl
@[simp] theorem State.raise_readData (s : State) (e : ResultCode) : (s.raise e).readData = s.readData := rfl
@[simp] theorem State.raise_trace (s : State) (e : ResultCode) : (s.raise e).trace = doneEvent s.curOp e s.now ++ s.trace := rfl
@[simp] theorem State.raise_now (s : State) (e : ResultCode) : (s.raise e).now = s.now := rfl
@[simp] theorem State.raise_draw (s : State) (e : ResultCode) : (s.raise e).draw = s.draw := rfl
@[simp] theorem State.raise_inputs (s : State) (e : ResultCode) : (s.raise e).inputs = s.inputs := rfl
@[simp] theorem State.raise_tick (s : State) (e : ResultCode) : (s.raise e).tick = s.tick := rfl
@[simp] theorem State.raise_registry (s : State) (e : ResultCode) : (s.raise e).registry = s.registry := rfl

/-! ### State.violate -/

@[simp] theorem State.violate_cfg (s : State) : (s.violate).cfg = s.cfg := rfl
@[simp] theorem State.violate_urom (s : State) : (s.violate).urom = s.urom := rfl
@[simp] theorem State.violate_live (s : State) : (s.violate).live = s.live := rfl
@[simp] theorem State.violate_lifeState (s : State) : (s.violate).lifeState = s.lifeState := rfl
@[simp] theorem State.violate_busy (s : State) : (s.violate).busy = s.busy := rfl
@[simp] theorem State.violate_protoFault (s : State) : (s.violate).protoFault = true := rfl
@[simp] theorem State.violate_readFault (s : State) : (s.violate).readFault = s.readFault := rfl
@[simp] theorem State.violate_result (s : State) : (s.violate).result = s.result := rfl
@[simp] theorem State.violate_warn (s : State) : (s.violate).warn = s.warn := rfl
@[simp] theorem State.violate_recIdx (s : State) : (s.violate).recIdx = s.recIdx := rfl
@[simp] theorem State.violate_bank (s : State) : (s.violate).bank = s.bank := rfl
@[simp] theorem State.violate_railReq (s : State) : (s.violate).railReq = s.railReq := rfl
@[simp] theorem State.violate_resetN (s : State) : (s.violate).resetN = s.resetN := rfl
@[simp] theorem State.violate_curOp (s : State) : (s.violate).curOp = s.curOp := rfl
@[simp] theorem State.violate_upc (s : State) : (s.violate).upc = s.upc := rfl
@[simp] theorem State.violate_pend (s : State) : (s.violate).pend = s.pend := rfl
@[simp] theorem State.violate_t0 (s : State) : (s.violate).t0 = s.t0 := rfl
@[simp] theorem State.violate_ri (s : State) : (s.violate).ri = s.ri := rfl
@[simp] theorem State.violate_phase (s : State) : (s.violate).phase = s.phase := rfl
@[simp] theorem State.violate_lastDone (s : State) : (s.violate).lastDone = s.lastDone := rfl
@[simp] theorem State.violate_detaching (s : State) : (s.violate).detaching = s.detaching := rfl
@[simp] theorem State.violate_attachResult (s : State) : (s.violate).attachResult = s.attachResult := rfl
@[simp] theorem State.violate_readData (s : State) : (s.violate).readData = s.readData := rfl
@[simp] theorem State.violate_trace (s : State) : (s.violate).trace = s.trace := rfl
@[simp] theorem State.violate_now (s : State) : (s.violate).now = s.now := rfl
@[simp] theorem State.violate_draw (s : State) : (s.violate).draw = s.draw := rfl
@[simp] theorem State.violate_inputs (s : State) : (s.violate).inputs = s.inputs := rfl
@[simp] theorem State.violate_tick (s : State) : (s.violate).tick = s.tick := rfl
@[simp] theorem State.violate_registry (s : State) : (s.violate).registry = s.registry := rfl

/-! ### State.refuseCommand -/

@[simp] theorem State.refuseCommand_cfg (s : State) (op : HostOp) : (s.refuseCommand op).cfg = s.cfg := rfl
@[simp] theorem State.refuseCommand_urom (s : State) (op : HostOp) : (s.refuseCommand op).urom = s.urom := rfl
@[simp] theorem State.refuseCommand_live (s : State) (op : HostOp) : (s.refuseCommand op).live = s.live := rfl
@[simp] theorem State.refuseCommand_lifeState (s : State) (op : HostOp) : (s.refuseCommand op).lifeState = s.lifeState := rfl
@[simp] theorem State.refuseCommand_busy (s : State) (op : HostOp) : (s.refuseCommand op).busy = s.busy := rfl
@[simp] theorem State.refuseCommand_protoFault (s : State) (op : HostOp) : (s.refuseCommand op).protoFault = s.protoFault := rfl
@[simp] theorem State.refuseCommand_readFault (s : State) (op : HostOp) : (s.refuseCommand op).readFault = s.readFault := rfl
@[simp] theorem State.refuseCommand_result (s : State) (op : HostOp) : (s.refuseCommand op).result = .stateError := rfl
@[simp] theorem State.refuseCommand_warn (s : State) (op : HostOp) : (s.refuseCommand op).warn = s.warn := rfl
@[simp] theorem State.refuseCommand_recIdx (s : State) (op : HostOp) : (s.refuseCommand op).recIdx = s.recIdx := rfl
@[simp] theorem State.refuseCommand_bank (s : State) (op : HostOp) : (s.refuseCommand op).bank = s.bank := rfl
@[simp] theorem State.refuseCommand_railReq (s : State) (op : HostOp) : (s.refuseCommand op).railReq = s.railReq := rfl
@[simp] theorem State.refuseCommand_resetN (s : State) (op : HostOp) : (s.refuseCommand op).resetN = s.resetN := rfl
@[simp] theorem State.refuseCommand_curOp (s : State) (op : HostOp) : (s.refuseCommand op).curOp = s.curOp := rfl
@[simp] theorem State.refuseCommand_upc (s : State) (op : HostOp) : (s.refuseCommand op).upc = s.upc := rfl
@[simp] theorem State.refuseCommand_pend (s : State) (op : HostOp) : (s.refuseCommand op).pend = s.pend := rfl
@[simp] theorem State.refuseCommand_t0 (s : State) (op : HostOp) : (s.refuseCommand op).t0 = s.t0 := rfl
@[simp] theorem State.refuseCommand_ri (s : State) (op : HostOp) : (s.refuseCommand op).ri = s.ri := rfl
@[simp] theorem State.refuseCommand_phase (s : State) (op : HostOp) : (s.refuseCommand op).phase = s.phase := rfl
@[simp] theorem State.refuseCommand_lastDone (s : State) (op : HostOp) : (s.refuseCommand op).lastDone = s.lastDone := rfl
@[simp] theorem State.refuseCommand_detaching (s : State) (op : HostOp) : (s.refuseCommand op).detaching = s.detaching := rfl
@[simp] theorem State.refuseCommand_attachResult (s : State) (op : HostOp) : (s.refuseCommand op).attachResult =
    s.attachResult := rfl
@[simp] theorem State.refuseCommand_readData (s : State) (op : HostOp) : (s.refuseCommand op).readData = s.readData := rfl
@[simp] theorem State.refuseCommand_trace (s : State) (op : HostOp) : (s.refuseCommand op).trace =
    ⟨.done op .stateError, s.now, s.now⟩ :: ⟨.accept op, s.now, s.now⟩ :: s.trace := rfl
@[simp] theorem State.refuseCommand_now (s : State) (op : HostOp) : (s.refuseCommand op).now = s.now := rfl
@[simp] theorem State.refuseCommand_draw (s : State) (op : HostOp) : (s.refuseCommand op).draw = s.draw := rfl
@[simp] theorem State.refuseCommand_inputs (s : State) (op : HostOp) : (s.refuseCommand op).inputs = s.inputs := rfl
@[simp] theorem State.refuseCommand_tick (s : State) (op : HostOp) : (s.refuseCommand op).tick = s.tick := rfl
@[simp] theorem State.refuseCommand_registry (s : State) (op : HostOp) : (s.refuseCommand op).registry = s.registry := rfl

/-! ### State.enter -/

@[simp] theorem State.enter_cfg (s : State) (op : HostOp) : (s.enter op).cfg = s.cfg := rfl
@[simp] theorem State.enter_urom (s : State) (op : HostOp) : (s.enter op).urom = s.urom := rfl
@[simp] theorem State.enter_live (s : State) (op : HostOp) : (s.enter op).live = s.live := rfl
@[simp] theorem State.enter_lifeState (s : State) (op : HostOp) : (s.enter op).lifeState = s.lifeState := rfl
@[simp] theorem State.enter_busy (s : State) (op : HostOp) : (s.enter op).busy = true := rfl
@[simp] theorem State.enter_protoFault (s : State) (op : HostOp) : (s.enter op).protoFault = s.protoFault := rfl
@[simp] theorem State.enter_readFault (s : State) (op : HostOp) : (s.enter op).readFault = s.readFault := rfl
@[simp] theorem State.enter_result (s : State) (op : HostOp) : (s.enter op).result = s.result := rfl
@[simp] theorem State.enter_warn (s : State) (op : HostOp) : (s.enter op).warn = s.warn := rfl
@[simp] theorem State.enter_recIdx (s : State) (op : HostOp) : (s.enter op).recIdx = s.recIdx := rfl
@[simp] theorem State.enter_bank (s : State) (op : HostOp) : (s.enter op).bank = s.bank := rfl
@[simp] theorem State.enter_railReq (s : State) (op : HostOp) : (s.enter op).railReq = s.railReq := rfl
@[simp] theorem State.enter_resetN (s : State) (op : HostOp) : (s.enter op).resetN = s.resetN := rfl
@[simp] theorem State.enter_curOp (s : State) (op : HostOp) : (s.enter op).curOp = some op := rfl
@[simp] theorem State.enter_upc (s : State) (op : HostOp) : (s.enter op).upc = 0 := rfl
@[simp] theorem State.enter_pend (s : State) (op : HostOp) : (s.enter op).pend = .ok := rfl
@[simp] theorem State.enter_t0 (s : State) (op : HostOp) : (s.enter op).t0 = s.t0 := rfl
@[simp] theorem State.enter_ri (s : State) (op : HostOp) : (s.enter op).ri = s.ri := rfl
@[simp] theorem State.enter_phase (s : State) (op : HostOp) : (s.enter op).phase = .fresh := rfl
@[simp] theorem State.enter_lastDone (s : State) (op : HostOp) : (s.enter op).lastDone = s.now := rfl
@[simp] theorem State.enter_detaching (s : State) (op : HostOp) : (s.enter op).detaching = s.detaching := rfl
@[simp] theorem State.enter_attachResult (s : State) (op : HostOp) : (s.enter op).attachResult = s.attachResult := rfl
@[simp] theorem State.enter_readData (s : State) (op : HostOp) : (s.enter op).readData = s.readData := rfl
@[simp] theorem State.enter_trace (s : State) (op : HostOp) : (s.enter op).trace = s.trace := rfl
@[simp] theorem State.enter_now (s : State) (op : HostOp) : (s.enter op).now = s.now := rfl
@[simp] theorem State.enter_draw (s : State) (op : HostOp) : (s.enter op).draw = s.draw := rfl
@[simp] theorem State.enter_inputs (s : State) (op : HostOp) : (s.enter op).inputs = s.inputs := rfl
@[simp] theorem State.enter_tick (s : State) (op : HostOp) : (s.enter op).tick = s.tick := rfl
@[simp] theorem State.enter_registry (s : State) (op : HostOp) : (s.enter op).registry = s.registry := rfl

/-! ### State.start -/

@[simp] theorem State.start_cfg (s : State) (op : HostOp) : (s.start op).cfg = s.cfg := rfl
@[simp] theorem State.start_urom (s : State) (op : HostOp) : (s.start op).urom = s.urom := rfl
@[simp] theorem State.start_live (s : State) (op : HostOp) : (s.start op).live = s.live := rfl
@[simp] theorem State.start_lifeState (s : State) (op : HostOp) : (s.start op).lifeState = s.lifeState := rfl
@[simp] theorem State.start_busy (s : State) (op : HostOp) : (s.start op).busy = true := rfl
@[simp] theorem State.start_protoFault (s : State) (op : HostOp) : (s.start op).protoFault = s.protoFault := rfl
@[simp] theorem State.start_readFault (s : State) (op : HostOp) : (s.start op).readFault = s.readFault := rfl
@[simp] theorem State.start_result (s : State) (op : HostOp) : (s.start op).result = s.result := rfl
@[simp] theorem State.start_warn (s : State) (op : HostOp) : (s.start op).warn = 0#4 := rfl
@[simp] theorem State.start_recIdx (s : State) (op : HostOp) : (s.start op).recIdx = s.recIdx := rfl
@[simp] theorem State.start_bank (s : State) (op : HostOp) : (s.start op).bank = s.bank := rfl
@[simp] theorem State.start_railReq (s : State) (op : HostOp) : (s.start op).railReq = s.railReq := rfl
@[simp] theorem State.start_resetN (s : State) (op : HostOp) : (s.start op).resetN = s.resetN := rfl
@[simp] theorem State.start_curOp (s : State) (op : HostOp) : (s.start op).curOp = some op := rfl
@[simp] theorem State.start_upc (s : State) (op : HostOp) : (s.start op).upc = 0 := rfl
@[simp] theorem State.start_pend (s : State) (op : HostOp) : (s.start op).pend = .ok := rfl
@[simp] theorem State.start_t0 (s : State) (op : HostOp) : (s.start op).t0 = s.t0 := rfl
@[simp] theorem State.start_ri (s : State) (op : HostOp) : (s.start op).ri = s.ri := rfl
@[simp] theorem State.start_phase (s : State) (op : HostOp) : (s.start op).phase = .fresh := rfl
@[simp] theorem State.start_lastDone (s : State) (op : HostOp) : (s.start op).lastDone = s.now := rfl
@[simp] theorem State.start_detaching (s : State) (op : HostOp) : (s.start op).detaching = s.detaching := rfl
@[simp] theorem State.start_attachResult (s : State) (op : HostOp) : (s.start op).attachResult = s.attachResult := rfl
@[simp] theorem State.start_readData (s : State) (op : HostOp) : (s.start op).readData = s.readData := rfl
@[simp] theorem State.start_trace (s : State) (op : HostOp) : (s.start op).trace = ⟨.accept op, s.now, s.now⟩ :: s.trace := rfl
@[simp] theorem State.start_now (s : State) (op : HostOp) : (s.start op).now = s.now := rfl
@[simp] theorem State.start_draw (s : State) (op : HostOp) : (s.start op).draw = s.draw := rfl
@[simp] theorem State.start_inputs (s : State) (op : HostOp) : (s.start op).inputs = s.inputs := rfl
@[simp] theorem State.start_tick (s : State) (op : HostOp) : (s.start op).tick = s.tick := rfl
@[simp] theorem State.start_registry (s : State) (op : HostOp) : (s.start op).registry = s.registry := rfl

/-! ### State.unprepareNoop -/

@[simp] theorem State.unprepareNoop_cfg (s : State) : (s.unprepareNoop).cfg = s.cfg := rfl
@[simp] theorem State.unprepareNoop_urom (s : State) : (s.unprepareNoop).urom = s.urom := rfl
@[simp] theorem State.unprepareNoop_live (s : State) : (s.unprepareNoop).live = s.live := rfl
@[simp] theorem State.unprepareNoop_lifeState (s : State) : (s.unprepareNoop).lifeState = s.lifeState := rfl
@[simp] theorem State.unprepareNoop_busy (s : State) : (s.unprepareNoop).busy = s.busy := rfl
@[simp] theorem State.unprepareNoop_protoFault (s : State) : (s.unprepareNoop).protoFault = s.protoFault := rfl
@[simp] theorem State.unprepareNoop_readFault (s : State) : (s.unprepareNoop).readFault = s.readFault := rfl
@[simp] theorem State.unprepareNoop_result (s : State) : (s.unprepareNoop).result = .ok := rfl
@[simp] theorem State.unprepareNoop_warn (s : State) : (s.unprepareNoop).warn = 0#4 := rfl
@[simp] theorem State.unprepareNoop_recIdx (s : State) : (s.unprepareNoop).recIdx = s.recIdx := rfl
@[simp] theorem State.unprepareNoop_bank (s : State) : (s.unprepareNoop).bank = s.bank := rfl
@[simp] theorem State.unprepareNoop_railReq (s : State) : (s.unprepareNoop).railReq = s.railReq := rfl
@[simp] theorem State.unprepareNoop_resetN (s : State) : (s.unprepareNoop).resetN = s.resetN := rfl
@[simp] theorem State.unprepareNoop_curOp (s : State) : (s.unprepareNoop).curOp = s.curOp := rfl
@[simp] theorem State.unprepareNoop_upc (s : State) : (s.unprepareNoop).upc = s.upc := rfl
@[simp] theorem State.unprepareNoop_pend (s : State) : (s.unprepareNoop).pend = s.pend := rfl
@[simp] theorem State.unprepareNoop_t0 (s : State) : (s.unprepareNoop).t0 = s.t0 := rfl
@[simp] theorem State.unprepareNoop_ri (s : State) : (s.unprepareNoop).ri = s.ri := rfl
@[simp] theorem State.unprepareNoop_phase (s : State) : (s.unprepareNoop).phase = s.phase := rfl
@[simp] theorem State.unprepareNoop_lastDone (s : State) : (s.unprepareNoop).lastDone = s.lastDone := rfl
@[simp] theorem State.unprepareNoop_detaching (s : State) : (s.unprepareNoop).detaching = s.detaching := rfl
@[simp] theorem State.unprepareNoop_attachResult (s : State) : (s.unprepareNoop).attachResult = s.attachResult := rfl
@[simp] theorem State.unprepareNoop_readData (s : State) : (s.unprepareNoop).readData = s.readData := rfl
@[simp] theorem State.unprepareNoop_trace (s : State) : (s.unprepareNoop).trace =
    ⟨.done .unprepare .ok, s.now, s.now⟩ :: ⟨.accept .unprepare, s.now, s.now⟩ :: s.trace := rfl
@[simp] theorem State.unprepareNoop_now (s : State) : (s.unprepareNoop).now = s.now := rfl
@[simp] theorem State.unprepareNoop_draw (s : State) : (s.unprepareNoop).draw = s.draw := rfl
@[simp] theorem State.unprepareNoop_inputs (s : State) : (s.unprepareNoop).inputs = s.inputs := rfl
@[simp] theorem State.unprepareNoop_tick (s : State) : (s.unprepareNoop).tick = s.tick := rfl
@[simp] theorem State.unprepareNoop_registry (s : State) : (s.unprepareNoop).registry = s.registry := rfl

/-! ### State.modesDelivered -/

@[simp] theorem State.modesDelivered_cfg (s : State) : (s.modesDelivered).cfg = s.cfg := rfl
@[simp] theorem State.modesDelivered_urom (s : State) : (s.modesDelivered).urom = s.urom := rfl
@[simp] theorem State.modesDelivered_live (s : State) : (s.modesDelivered).live = s.live := rfl
@[simp] theorem State.modesDelivered_lifeState (s : State) : (s.modesDelivered).lifeState = s.lifeState := rfl
@[simp] theorem State.modesDelivered_busy (s : State) : (s.modesDelivered).busy = s.busy := rfl
@[simp] theorem State.modesDelivered_protoFault (s : State) : (s.modesDelivered).protoFault = s.protoFault := rfl
@[simp] theorem State.modesDelivered_readFault (s : State) : (s.modesDelivered).readFault = s.readFault := rfl
@[simp] theorem State.modesDelivered_result (s : State) : (s.modesDelivered).result = .ok := rfl
@[simp] theorem State.modesDelivered_warn (s : State) : (s.modesDelivered).warn = s.warn := rfl
@[simp] theorem State.modesDelivered_recIdx (s : State) : (s.modesDelivered).recIdx = s.recIdx := rfl
@[simp] theorem State.modesDelivered_bank (s : State) : (s.modesDelivered).bank = ModeBank.ofConfig s.cfg := rfl
@[simp] theorem State.modesDelivered_railReq (s : State) : (s.modesDelivered).railReq = s.railReq := rfl
@[simp] theorem State.modesDelivered_resetN (s : State) : (s.modesDelivered).resetN = s.resetN := rfl
@[simp] theorem State.modesDelivered_curOp (s : State) : (s.modesDelivered).curOp = s.curOp := rfl
@[simp] theorem State.modesDelivered_upc (s : State) : (s.modesDelivered).upc = s.upc := rfl
@[simp] theorem State.modesDelivered_pend (s : State) : (s.modesDelivered).pend = s.pend := rfl
@[simp] theorem State.modesDelivered_t0 (s : State) : (s.modesDelivered).t0 = s.t0 := rfl
@[simp] theorem State.modesDelivered_ri (s : State) : (s.modesDelivered).ri = s.ri := rfl
@[simp] theorem State.modesDelivered_phase (s : State) : (s.modesDelivered).phase = s.phase := rfl
@[simp] theorem State.modesDelivered_lastDone (s : State) : (s.modesDelivered).lastDone = s.lastDone := rfl
@[simp] theorem State.modesDelivered_detaching (s : State) : (s.modesDelivered).detaching = s.detaching := rfl
@[simp] theorem State.modesDelivered_attachResult (s : State) : (s.modesDelivered).attachResult = s.attachResult := rfl
@[simp] theorem State.modesDelivered_readData (s : State) : (s.modesDelivered).readData = s.readData := rfl
@[simp] theorem State.modesDelivered_trace (s : State) : (s.modesDelivered).trace =
    ⟨.done .getModes .ok, s.now, s.now⟩ :: ⟨.accept .getModes, s.now, s.now⟩ :: s.trace := rfl
@[simp] theorem State.modesDelivered_now (s : State) : (s.modesDelivered).now = s.now := rfl
@[simp] theorem State.modesDelivered_draw (s : State) : (s.modesDelivered).draw = s.draw := rfl
@[simp] theorem State.modesDelivered_inputs (s : State) : (s.modesDelivered).inputs = s.inputs := rfl
@[simp] theorem State.modesDelivered_tick (s : State) : (s.modesDelivered).tick = s.tick := rfl
@[simp] theorem State.modesDelivered_registry (s : State) : (s.modesDelivered).registry = s.registry := rfl

/-! ### State.modesFailed -/

@[simp] theorem State.modesFailed_cfg (s : State) : (s.modesFailed).cfg = s.cfg := rfl
@[simp] theorem State.modesFailed_urom (s : State) : (s.modesFailed).urom = s.urom := rfl
@[simp] theorem State.modesFailed_live (s : State) : (s.modesFailed).live = s.live := rfl
@[simp] theorem State.modesFailed_lifeState (s : State) : (s.modesFailed).lifeState = s.lifeState := rfl
@[simp] theorem State.modesFailed_busy (s : State) : (s.modesFailed).busy = s.busy := rfl
@[simp] theorem State.modesFailed_protoFault (s : State) : (s.modesFailed).protoFault = s.protoFault := rfl
@[simp] theorem State.modesFailed_readFault (s : State) : (s.modesFailed).readFault = s.readFault := rfl
@[simp] theorem State.modesFailed_result (s : State) : (s.modesFailed).result = .allocationError := rfl
@[simp] theorem State.modesFailed_warn (s : State) : (s.modesFailed).warn = s.warn := rfl
@[simp] theorem State.modesFailed_recIdx (s : State) : (s.modesFailed).recIdx = s.recIdx := rfl
@[simp] theorem State.modesFailed_bank (s : State) : (s.modesFailed).bank = s.bank := rfl
@[simp] theorem State.modesFailed_railReq (s : State) : (s.modesFailed).railReq = s.railReq := rfl
@[simp] theorem State.modesFailed_resetN (s : State) : (s.modesFailed).resetN = s.resetN := rfl
@[simp] theorem State.modesFailed_curOp (s : State) : (s.modesFailed).curOp = s.curOp := rfl
@[simp] theorem State.modesFailed_upc (s : State) : (s.modesFailed).upc = s.upc := rfl
@[simp] theorem State.modesFailed_pend (s : State) : (s.modesFailed).pend = s.pend := rfl
@[simp] theorem State.modesFailed_t0 (s : State) : (s.modesFailed).t0 = s.t0 := rfl
@[simp] theorem State.modesFailed_ri (s : State) : (s.modesFailed).ri = s.ri := rfl
@[simp] theorem State.modesFailed_phase (s : State) : (s.modesFailed).phase = s.phase := rfl
@[simp] theorem State.modesFailed_lastDone (s : State) : (s.modesFailed).lastDone = s.lastDone := rfl
@[simp] theorem State.modesFailed_detaching (s : State) : (s.modesFailed).detaching = s.detaching := rfl
@[simp] theorem State.modesFailed_attachResult (s : State) : (s.modesFailed).attachResult = s.attachResult := rfl
@[simp] theorem State.modesFailed_readData (s : State) : (s.modesFailed).readData = s.readData := rfl
@[simp] theorem State.modesFailed_trace (s : State) : (s.modesFailed).trace =
    ⟨.done .getModes .allocationError, s.now, s.now⟩ :: ⟨.accept .getModes, s.now, s.now⟩ :: s.trace := rfl
@[simp] theorem State.modesFailed_now (s : State) : (s.modesFailed).now = s.now := rfl
@[simp] theorem State.modesFailed_draw (s : State) : (s.modesFailed).draw = s.draw := rfl
@[simp] theorem State.modesFailed_inputs (s : State) : (s.modesFailed).inputs = s.inputs := rfl
@[simp] theorem State.modesFailed_tick (s : State) : (s.modesFailed).tick = s.tick := rfl
@[simp] theorem State.modesFailed_registry (s : State) : (s.modesFailed).registry = s.registry := rfl

/-! ### State.beginWait -/

@[simp] theorem State.beginWait_cfg (s : State) : (s.beginWait).cfg = s.cfg := rfl
@[simp] theorem State.beginWait_urom (s : State) : (s.beginWait).urom = s.urom := rfl
@[simp] theorem State.beginWait_live (s : State) : (s.beginWait).live = s.live := rfl
@[simp] theorem State.beginWait_lifeState (s : State) : (s.beginWait).lifeState = s.lifeState := rfl
@[simp] theorem State.beginWait_busy (s : State) : (s.beginWait).busy = s.busy := rfl
@[simp] theorem State.beginWait_protoFault (s : State) : (s.beginWait).protoFault = s.protoFault := rfl
@[simp] theorem State.beginWait_readFault (s : State) : (s.beginWait).readFault = s.readFault := rfl
@[simp] theorem State.beginWait_result (s : State) : (s.beginWait).result = s.result := rfl
@[simp] theorem State.beginWait_warn (s : State) : (s.beginWait).warn = s.warn := rfl
@[simp] theorem State.beginWait_recIdx (s : State) : (s.beginWait).recIdx = s.recIdx := rfl
@[simp] theorem State.beginWait_bank (s : State) : (s.beginWait).bank = s.bank := rfl
@[simp] theorem State.beginWait_railReq (s : State) : (s.beginWait).railReq = s.railReq := rfl
@[simp] theorem State.beginWait_resetN (s : State) : (s.beginWait).resetN = s.resetN := rfl
@[simp] theorem State.beginWait_curOp (s : State) : (s.beginWait).curOp = s.curOp := rfl
@[simp] theorem State.beginWait_upc (s : State) : (s.beginWait).upc = s.upc := rfl
@[simp] theorem State.beginWait_pend (s : State) : (s.beginWait).pend = s.pend := rfl
@[simp] theorem State.beginWait_t0 (s : State) : (s.beginWait).t0 = if s.phase = .begun then s.t0 else s.lastDone := rfl
@[simp] theorem State.beginWait_ri (s : State) : (s.beginWait).ri = s.ri := rfl
@[simp] theorem State.beginWait_phase (s : State) : (s.beginWait).phase = .begun := rfl
@[simp] theorem State.beginWait_lastDone (s : State) : (s.beginWait).lastDone = s.lastDone := rfl
@[simp] theorem State.beginWait_detaching (s : State) : (s.beginWait).detaching = s.detaching := rfl
@[simp] theorem State.beginWait_attachResult (s : State) : (s.beginWait).attachResult = s.attachResult := rfl
@[simp] theorem State.beginWait_readData (s : State) : (s.beginWait).readData = s.readData := rfl
@[simp] theorem State.beginWait_trace (s : State) : (s.beginWait).trace = s.trace := rfl
@[simp] theorem State.beginWait_now (s : State) : (s.beginWait).now = s.now := rfl
@[simp] theorem State.beginWait_draw (s : State) : (s.beginWait).draw = s.draw := rfl
@[simp] theorem State.beginWait_inputs (s : State) : (s.beginWait).inputs = s.inputs := rfl
@[simp] theorem State.beginWait_tick (s : State) : (s.beginWait).tick = s.tick := rfl
@[simp] theorem State.beginWait_registry (s : State) : (s.beginWait).registry = s.registry := rfl

/-! ### State.countRecord -/

@[simp] theorem State.countRecord_cfg (s : State) : (s.countRecord).cfg = s.cfg := rfl
@[simp] theorem State.countRecord_urom (s : State) : (s.countRecord).urom = s.urom := rfl
@[simp] theorem State.countRecord_live (s : State) : (s.countRecord).live = s.live := rfl
@[simp] theorem State.countRecord_lifeState (s : State) : (s.countRecord).lifeState = s.lifeState := rfl
@[simp] theorem State.countRecord_busy (s : State) : (s.countRecord).busy = s.busy := rfl
@[simp] theorem State.countRecord_protoFault (s : State) : (s.countRecord).protoFault = s.protoFault := rfl
@[simp] theorem State.countRecord_readFault (s : State) : (s.countRecord).readFault = s.readFault := rfl
@[simp] theorem State.countRecord_result (s : State) : (s.countRecord).result = s.result := rfl
@[simp] theorem State.countRecord_warn (s : State) : (s.countRecord).warn = s.warn := rfl
@[simp] theorem State.countRecord_recIdx (s : State) : (s.countRecord).recIdx = BitVec.ofNat 16 (s.ri + 1) := rfl
@[simp] theorem State.countRecord_bank (s : State) : (s.countRecord).bank = s.bank := rfl
@[simp] theorem State.countRecord_railReq (s : State) : (s.countRecord).railReq = s.railReq := rfl
@[simp] theorem State.countRecord_resetN (s : State) : (s.countRecord).resetN = s.resetN := rfl
@[simp] theorem State.countRecord_curOp (s : State) : (s.countRecord).curOp = s.curOp := rfl
@[simp] theorem State.countRecord_upc (s : State) : (s.countRecord).upc = s.upc := rfl
@[simp] theorem State.countRecord_pend (s : State) : (s.countRecord).pend = s.pend := rfl
@[simp] theorem State.countRecord_t0 (s : State) : (s.countRecord).t0 = s.t0 := rfl
@[simp] theorem State.countRecord_ri (s : State) : (s.countRecord).ri = s.ri + 1 := rfl
@[simp] theorem State.countRecord_phase (s : State) : (s.countRecord).phase = .begun := rfl
@[simp] theorem State.countRecord_lastDone (s : State) : (s.countRecord).lastDone = s.lastDone := rfl
@[simp] theorem State.countRecord_detaching (s : State) : (s.countRecord).detaching = s.detaching := rfl
@[simp] theorem State.countRecord_attachResult (s : State) : (s.countRecord).attachResult = s.attachResult := rfl
@[simp] theorem State.countRecord_readData (s : State) : (s.countRecord).readData = s.readData := rfl
@[simp] theorem State.countRecord_trace (s : State) : (s.countRecord).trace = s.trace := rfl
@[simp] theorem State.countRecord_now (s : State) : (s.countRecord).now = s.now := rfl
@[simp] theorem State.countRecord_draw (s : State) : (s.countRecord).draw = s.draw := rfl
@[simp] theorem State.countRecord_inputs (s : State) : (s.countRecord).inputs = s.inputs := rfl
@[simp] theorem State.countRecord_tick (s : State) : (s.countRecord).tick = s.tick := rfl
@[simp] theorem State.countRecord_registry (s : State) : (s.countRecord).registry = s.registry := rfl

/-! ### State.arrive -/

@[simp] theorem State.arrive_cfg (s : State) : (s.arrive).cfg = s.cfg := rfl
@[simp] theorem State.arrive_urom (s : State) : (s.arrive).urom = s.urom := rfl
@[simp] theorem State.arrive_live (s : State) : (s.arrive).live = s.live := rfl
@[simp] theorem State.arrive_lifeState (s : State) : (s.arrive).lifeState = s.lifeState := rfl
@[simp] theorem State.arrive_busy (s : State) : (s.arrive).busy = s.busy := rfl
@[simp] theorem State.arrive_protoFault (s : State) : (s.arrive).protoFault = s.protoFault := rfl
@[simp] theorem State.arrive_readFault (s : State) : (s.arrive).readFault = s.readFault := rfl
@[simp] theorem State.arrive_result (s : State) : (s.arrive).result = s.result := rfl
@[simp] theorem State.arrive_warn (s : State) : (s.arrive).warn = s.warn := rfl
@[simp] theorem State.arrive_recIdx (s : State) : (s.arrive).recIdx = s.recIdx := rfl
@[simp] theorem State.arrive_bank (s : State) : (s.arrive).bank = s.bank := rfl
@[simp] theorem State.arrive_railReq (s : State) : (s.arrive).railReq = s.railReq := rfl
@[simp] theorem State.arrive_resetN (s : State) : (s.arrive).resetN = s.resetN := rfl
@[simp] theorem State.arrive_curOp (s : State) : (s.arrive).curOp = s.curOp := rfl
@[simp] theorem State.arrive_upc (s : State) : (s.arrive).upc = s.upc := rfl
@[simp] theorem State.arrive_pend (s : State) : (s.arrive).pend = s.pend := rfl
@[simp] theorem State.arrive_t0 (s : State) : (s.arrive).t0 = s.t0 := rfl
@[simp] theorem State.arrive_ri (s : State) : (s.arrive).ri = s.ri := rfl
@[simp] theorem State.arrive_phase (s : State) : (s.arrive).phase = s.phase := rfl
@[simp] theorem State.arrive_lastDone (s : State) : (s.arrive).lastDone = s.lastDone := rfl
@[simp] theorem State.arrive_detaching (s : State) : (s.arrive).detaching = s.detaching := rfl
@[simp] theorem State.arrive_attachResult (s : State) : (s.arrive).attachResult = s.attachResult := rfl
@[simp] theorem State.arrive_readData (s : State) : (s.arrive).readData = s.readData := rfl
@[simp] theorem State.arrive_trace (s : State) : (s.arrive).trace = s.trace := rfl
@[simp] theorem State.arrive_now (s : State) : (s.arrive).now = s.now + s.nextInput.dt := rfl
@[simp] theorem State.arrive_draw (s : State) : (s.arrive).draw = ⟨s.nextInput.resp, s.nextInput.alloc⟩ := rfl
@[simp] theorem State.arrive_inputs (s : State) : (s.arrive).inputs = s.inputs.tail := rfl
@[simp] theorem State.arrive_tick (s : State) : (s.arrive).tick = s.tick + 1 := rfl
@[simp] theorem State.arrive_registry (s : State) : (s.arrive).registry = s.registry := rfl

/-! ### State.reading -/

@[simp] theorem State.reading_cfg (s : State) (n : Nat) (r : HostReg) : (s.reading n r).cfg = s.cfg := rfl
@[simp] theorem State.reading_urom (s : State) (n : Nat) (r : HostReg) : (s.reading n r).urom = s.urom := rfl
@[simp] theorem State.reading_live (s : State) (n : Nat) (r : HostReg) : (s.reading n r).live = s.live := rfl
@[simp] theorem State.reading_lifeState (s : State) (n : Nat) (r : HostReg) : (s.reading n r).lifeState = s.lifeState := rfl
@[simp] theorem State.reading_busy (s : State) (n : Nat) (r : HostReg) : (s.reading n r).busy = s.busy := rfl
@[simp] theorem State.reading_protoFault (s : State) (n : Nat) (r : HostReg) : (s.reading n r).protoFault = s.protoFault := rfl
@[simp] theorem State.reading_readFault (s : State) (n : Nat) (r : HostReg) : (s.reading n r).readFault =
    (s.unwritten r || s.readFault) := rfl
@[simp] theorem State.reading_result (s : State) (n : Nat) (r : HostReg) : (s.reading n r).result = s.result := rfl
@[simp] theorem State.reading_warn (s : State) (n : Nat) (r : HostReg) : (s.reading n r).warn = s.warn := rfl
@[simp] theorem State.reading_recIdx (s : State) (n : Nat) (r : HostReg) : (s.reading n r).recIdx = s.recIdx := rfl
@[simp] theorem State.reading_bank (s : State) (n : Nat) (r : HostReg) : (s.reading n r).bank = s.bank := rfl
@[simp] theorem State.reading_railReq (s : State) (n : Nat) (r : HostReg) : (s.reading n r).railReq = s.railReq := rfl
@[simp] theorem State.reading_resetN (s : State) (n : Nat) (r : HostReg) : (s.reading n r).resetN = s.resetN := rfl
@[simp] theorem State.reading_curOp (s : State) (n : Nat) (r : HostReg) : (s.reading n r).curOp = s.curOp := rfl
@[simp] theorem State.reading_upc (s : State) (n : Nat) (r : HostReg) : (s.reading n r).upc = s.upc := rfl
@[simp] theorem State.reading_pend (s : State) (n : Nat) (r : HostReg) : (s.reading n r).pend = s.pend := rfl
@[simp] theorem State.reading_t0 (s : State) (n : Nat) (r : HostReg) : (s.reading n r).t0 = s.t0 := rfl
@[simp] theorem State.reading_ri (s : State) (n : Nat) (r : HostReg) : (s.reading n r).ri = s.ri := rfl
@[simp] theorem State.reading_phase (s : State) (n : Nat) (r : HostReg) : (s.reading n r).phase = s.phase := rfl
@[simp] theorem State.reading_lastDone (s : State) (n : Nat) (r : HostReg) : (s.reading n r).lastDone = s.lastDone := rfl
@[simp] theorem State.reading_detaching (s : State) (n : Nat) (r : HostReg) : (s.reading n r).detaching = s.detaching := rfl
@[simp] theorem State.reading_attachResult (s : State) (n : Nat) (r : HostReg) : (s.reading n r).attachResult =
    s.attachResult := rfl
@[simp] theorem State.reading_readData (s : State) (n : Nat) (r : HostReg) : (s.reading n r).readData =
    some (n, readReg s r) := rfl
@[simp] theorem State.reading_trace (s : State) (n : Nat) (r : HostReg) : (s.reading n r).trace = s.trace := rfl
@[simp] theorem State.reading_now (s : State) (n : Nat) (r : HostReg) : (s.reading n r).now = s.now := rfl
@[simp] theorem State.reading_draw (s : State) (n : Nat) (r : HostReg) : (s.reading n r).draw = s.draw := rfl
@[simp] theorem State.reading_inputs (s : State) (n : Nat) (r : HostReg) : (s.reading n r).inputs = s.inputs := rfl
@[simp] theorem State.reading_tick (s : State) (n : Nat) (r : HostReg) : (s.reading n r).tick = s.tick := rfl
@[simp] theorem State.reading_registry (s : State) (n : Nat) (r : HostReg) : (s.reading n r).registry = s.registry := rfl

/-! ### State.destroy -/

@[simp] theorem State.destroy_cfg (s : State) : (s.destroy).cfg = s.cfg := rfl
@[simp] theorem State.destroy_urom (s : State) : (s.destroy).urom = s.urom := rfl
@[simp] theorem State.destroy_live (s : State) : (s.destroy).live = false := rfl
@[simp] theorem State.destroy_lifeState (s : State) : (s.destroy).lifeState = s.lifeState := rfl
@[simp] theorem State.destroy_busy (s : State) : (s.destroy).busy = s.busy := rfl
@[simp] theorem State.destroy_protoFault (s : State) : (s.destroy).protoFault = s.protoFault := rfl
@[simp] theorem State.destroy_readFault (s : State) : (s.destroy).readFault = s.readFault := rfl
@[simp] theorem State.destroy_result (s : State) : (s.destroy).result = s.result := rfl
@[simp] theorem State.destroy_warn (s : State) : (s.destroy).warn = s.warn := rfl
@[simp] theorem State.destroy_recIdx (s : State) : (s.destroy).recIdx = s.recIdx := rfl
@[simp] theorem State.destroy_bank (s : State) : (s.destroy).bank = s.bank := rfl
@[simp] theorem State.destroy_railReq (s : State) : (s.destroy).railReq = s.railReq := rfl
@[simp] theorem State.destroy_resetN (s : State) : (s.destroy).resetN = s.resetN := rfl
@[simp] theorem State.destroy_curOp (s : State) : (s.destroy).curOp = s.curOp := rfl
@[simp] theorem State.destroy_upc (s : State) : (s.destroy).upc = s.upc := rfl
@[simp] theorem State.destroy_pend (s : State) : (s.destroy).pend = s.pend := rfl
@[simp] theorem State.destroy_t0 (s : State) : (s.destroy).t0 = s.t0 := rfl
@[simp] theorem State.destroy_ri (s : State) : (s.destroy).ri = s.ri := rfl
@[simp] theorem State.destroy_phase (s : State) : (s.destroy).phase = s.phase := rfl
@[simp] theorem State.destroy_lastDone (s : State) : (s.destroy).lastDone = s.lastDone := rfl
@[simp] theorem State.destroy_detaching (s : State) : (s.destroy).detaching = false := rfl
@[simp] theorem State.destroy_attachResult (s : State) : (s.destroy).attachResult = s.attachResult := rfl
@[simp] theorem State.destroy_readData (s : State) : (s.destroy).readData = s.readData := rfl
@[simp] theorem State.destroy_trace (s : State) : (s.destroy).trace = s.trace := rfl
@[simp] theorem State.destroy_now (s : State) : (s.destroy).now = s.now := rfl
@[simp] theorem State.destroy_draw (s : State) : (s.destroy).draw = s.draw := rfl
@[simp] theorem State.destroy_inputs (s : State) : (s.destroy).inputs = s.inputs := rfl
@[simp] theorem State.destroy_tick (s : State) : (s.destroy).tick = s.tick := rfl
@[simp] theorem State.destroy_registry (s : State) : (s.destroy).registry = s.registry := rfl

/-! ### Phases and events -/

@[simp] theorem Phase.request_awaiting (q req : Request) (ts now : Nat) : (Phase.awaiting q ts).request req now = .awaiting q ts := rfl
@[simp] theorem Phase.request_fresh (req : Request) (now : Nat) : Phase.fresh.request req now = .awaiting req now := rfl
@[simp] theorem Phase.request_begun (req : Request) (now : Nat) : Phase.begun.request req now = .awaiting req now := rfl
@[simp] theorem doneEvent_some (op : HostOp) (r : ResultCode) (now : Nat) : doneEvent (some op) r now = [⟨.done op r, now, now⟩] := rfl
@[simp] theorem doneEvent_none (r : ResultCode) (now : Nat) : doneEvent none r now = [] := rfl

/-- Issuing a request does not change when it was issued. -/
@[simp] theorem State.issue_issueTime (s : State) (req : Request) : (s.issue req).issueTime = s.issueTime := by
  unfold State.issueTime
  simp only [State.issue_phase, State.issue_now]
  cases s.phase <;> rfl

@[simp] theorem State.issueRail_issueTime (s : State) (en : Bool) : (s.issueRail en).issueTime = s.issueTime := by
  unfold State.issueTime
  simp only [State.issueRail_phase, State.issueRail_now]
  cases s.phase <;> rfl

@[simp] theorem State.complete_issueTime (s : State) : s.complete.issueTime = s.now := rfl
@[simp] theorem State.complete_requesting (s : State) : s.complete.requesting = false := rfl
@[simp] theorem State.raise_requesting (s : State) (e : ResultCode) : (s.raise e).requesting = false := rfl
@[simp] theorem State.finish_requesting (s : State) (r : ResultCode) : (s.finish r).requesting = false := rfl

@[simp] theorem State.issueRail_requesting (s : State) (en : Bool) : (s.issueRail en).requesting = true := by
  unfold State.requesting
  simp only [State.issueRail_phase]
  cases s.phase <;> rfl

/-! ### The mode bank -/

@[simp] theorem ModeReg.holding_value (v : HostWord) : (ModeReg.holding v).value = v := rfl
@[simp] theorem ModeReg.holding_written (v : HostWord) : (ModeReg.holding v).written = true := rfl
@[simp] theorem ModeReg.unwritten_written (n : Nat) : (ModeReg.unwritten n).written = false := rfl

/-- A write stores its value in its own register. -/
@[simp] theorem ModeBank.get_set_self (b : ModeBank) (v : HostWord) (r : BankReg) : (b.set v r).get r = .holding v := by
  cases r <;> rfl

/-- A write leaves every other register of the bank. -/
theorem ModeBank.get_set_other (b : ModeBank) (v : HostWord) (r q : BankReg) (h : q ≠ r) : (b.set v r).get q = b.get q := by
  cases r <;> cases q <;> first | rfl | exact absurd rfl h

/-- GET_MODES writes every register of the bank (R195). -/
@[simp] theorem ModeBank.ofConfig_written (c : PanelConfig) (r : BankReg) : ((ModeBank.ofConfig c).get r).written = true := by
  cases r <;> rfl

/-- No register of the bank is written at reset (R39). -/
@[simp] theorem ModeBank.unwritten_get_written (r : BankReg) : (ModeBank.unwritten.get r).written = false := by
  cases r <;> rfl

/-! ### State.create -/

@[simp] theorem State.create_cfg (s : State) (c : PanelConfig) : (s.create c).cfg = c := rfl
@[simp] theorem State.create_urom (s : State) (c : PanelConfig) : (s.create c).urom = s.urom := rfl
@[simp] theorem State.create_live (s : State) (c : PanelConfig) : (s.create c).live = State.reset.live := rfl
@[simp] theorem State.create_lifeState (s : State) (c : PanelConfig) : (s.create c).lifeState = State.reset.lifeState := rfl
@[simp] theorem State.create_busy (s : State) (c : PanelConfig) : (s.create c).busy = State.reset.busy := rfl
@[simp] theorem State.create_protoFault (s : State) (c : PanelConfig) : (s.create c).protoFault = State.reset.protoFault := rfl
@[simp] theorem State.create_readFault (s : State) (c : PanelConfig) : (s.create c).readFault = State.reset.readFault := rfl
@[simp] theorem State.create_result (s : State) (c : PanelConfig) : (s.create c).result = State.reset.result := rfl
@[simp] theorem State.create_warn (s : State) (c : PanelConfig) : (s.create c).warn = State.reset.warn := rfl
@[simp] theorem State.create_recIdx (s : State) (c : PanelConfig) : (s.create c).recIdx = State.reset.recIdx := rfl
@[simp] theorem State.create_bank (s : State) (c : PanelConfig) : (s.create c).bank = State.reset.bank := rfl
@[simp] theorem State.create_railReq (s : State) (c : PanelConfig) : (s.create c).railReq = State.reset.railReq := rfl
@[simp] theorem State.create_resetN (s : State) (c : PanelConfig) : (s.create c).resetN = State.reset.resetN := rfl
@[simp] theorem State.create_curOp (s : State) (c : PanelConfig) : (s.create c).curOp = State.reset.curOp := rfl
@[simp] theorem State.create_upc (s : State) (c : PanelConfig) : (s.create c).upc = State.reset.upc := rfl
@[simp] theorem State.create_pend (s : State) (c : PanelConfig) : (s.create c).pend = State.reset.pend := rfl
@[simp] theorem State.create_t0 (s : State) (c : PanelConfig) : (s.create c).t0 = State.reset.t0 := rfl
@[simp] theorem State.create_ri (s : State) (c : PanelConfig) : (s.create c).ri = State.reset.ri := rfl
@[simp] theorem State.create_phase (s : State) (c : PanelConfig) : (s.create c).phase = State.reset.phase := rfl
@[simp] theorem State.create_lastDone (s : State) (c : PanelConfig) : (s.create c).lastDone = s.now := rfl
@[simp] theorem State.create_detaching (s : State) (c : PanelConfig) : (s.create c).detaching = State.reset.detaching := rfl
@[simp] theorem State.create_attachResult (s : State) (c : PanelConfig) : (s.create c).attachResult = State.reset.attachResult := rfl
@[simp] theorem State.create_readData (s : State) (c : PanelConfig) : (s.create c).readData = s.readData := rfl
@[simp] theorem State.create_trace (s : State) (c : PanelConfig) : (s.create c).trace = State.reset.trace := rfl
@[simp] theorem State.create_now (s : State) (c : PanelConfig) : (s.create c).now = s.now := rfl
@[simp] theorem State.create_draw (s : State) (c : PanelConfig) : (s.create c).draw = s.draw := rfl
@[simp] theorem State.create_inputs (s : State) (c : PanelConfig) : (s.create c).inputs = s.inputs := rfl
@[simp] theorem State.create_tick (s : State) (c : PanelConfig) : (s.create c).tick = s.tick := rfl
@[simp] theorem State.create_registry (s : State) (c : PanelConfig) : (s.create c).registry = s.registry := rfl

end Sys2Proof.Machine
end

