-- ==== Sys2Proof/Laws/Ops.lean ====
section
/-! SUPPORT. For each shared operation and for the step, everything it can do, said once. -/

namespace Sys2Proof.Machine

/-! ## Table reads -/

theorem tableRead_of_lt (c : PanelConfig) (i : Nat) (h : i < c.nRec.toNat) :
    tableRead c i = some (Memory.read c.table (2 * i), Memory.read c.table (2 * i + 1)) := by
  have h0 : 2 * i < 2 * c.nRec.toNat := by omega
  have h1 : 2 * i + 1 < 2 * c.nRec.toNat := by omega
  simp [tableRead, memRead, h0, h1]

/-! ## Acceptance -/

/-- Everything the acceptance of a host command can do (R110, R224). -/
theorem accept_cases (s t : State) (op : HostOp) (perform : State → State) (h : s.accept op perform = .next t) :
    (s.live = false ∧ t = s)
      ∨ (s.live = true ∧ s.busy = true ∧ t = s.violate)
      ∨ (s.live = true ∧ s.busy = false ∧ precondition op s.lifeState = false ∧ t = s.refuseCommand op)
      ∨ (s.live = true ∧ s.busy = false ∧ precondition op s.lifeState = true ∧ t = perform s) := by
  simp only [State.accept, Host.Outcome.next.injEq] at h
  subst h
  cases s.live <;> cases s.busy <;> cases precondition op s.lifeState <;> simp

/-- Everything a host instruction can do on a live instance (R110, R224, R131, R195). -/
theorem hostInstr_cases (i : Instr) (s t : State)
    (hi : i = .prepare ∨ i = .enable ∨ i = .disable ∨ i = .unprepare ∨ i = .getModes) (hl : s.live = true)
    (h : exec i s = .next t) :
    (s.busy = true ∧ t = s.violate)
      ∨ (s.busy = false ∧ ∃ op, precondition op s.lifeState = false ∧ t = s.refuseCommand op)
      ∨ (s.busy = false ∧ ∃ op, precondition op s.lifeState = true ∧ op ≠ .getModes ∧ t = s.start op)
      ∨ (s.busy = false ∧ s.lifeState = .unpowered ∧ t = s.unprepareNoop)
      ∨ (s.busy = false ∧ (t = s.modesDelivered ∨ t = s.modesFailed)) := by
  have key : ∀ op perform, s.accept op perform = .next t →
      (s.busy = true ∧ t = s.violate)
        ∨ (s.busy = false ∧ precondition op s.lifeState = false ∧ t = s.refuseCommand op)
        ∨ (s.busy = false ∧ precondition op s.lifeState = true ∧ t = perform s) := by
    intro op perform ha
    rcases accept_cases s t op perform ha with ⟨h1, -⟩ | ⟨-, h1, h2⟩ | ⟨-, h1, h2⟩ | ⟨-, h1, h2⟩
    · rw [hl] at h1; cases h1
    · exact .inl ⟨h1, h2⟩
    · exact .inr (.inl ⟨h1, h2⟩)
    · exact .inr (.inr ⟨h1, h2⟩)
  rcases hi with rfl | rfl | rfl | rfl | rfl
  · simp only [exec, execPrepare] at h
    rcases key .prepare _ h with h | ⟨hb, hp, rfl⟩ | ⟨hb, hp, rfl⟩
    · exact .inl h
    · exact .inr (.inl ⟨hb, _, hp, rfl⟩)
    · exact .inr (.inr (.inl ⟨hb, .prepare, hp, by decide, rfl⟩))
  · simp only [exec, execEnable] at h
    rcases key .enable _ h with h | ⟨hb, hp, rfl⟩ | ⟨hb, hp, rfl⟩
    · exact .inl h
    · exact .inr (.inl ⟨hb, _, hp, rfl⟩)
    · exact .inr (.inr (.inl ⟨hb, .enable, hp, by decide, rfl⟩))
  · simp only [exec, execDisable] at h
    rcases key .disable _ h with h | ⟨hb, hp, rfl⟩ | ⟨hb, hp, rfl⟩
    · exact .inl h
    · exact .inr (.inl ⟨hb, _, hp, rfl⟩)
    · exact .inr (.inr (.inl ⟨hb, .disable, hp, by decide, rfl⟩))
  · simp only [exec, execUnprepare] at h
    rcases key .unprepare _ h with h | ⟨hb, hp, rfl⟩ | ⟨hb, hp, rfl⟩
    · exact .inl h
    · exact .inr (.inl ⟨hb, _, hp, rfl⟩)
    · by_cases hn : s.lifeState = .unpowered ∧ s.cfg.unprepareWhenUnpowered = .noop
      · rw [if_pos hn]
        exact .inr (.inr (.inr (.inl ⟨hb, hn.1, rfl⟩)))
      · rw [if_neg hn]
        exact .inr (.inr (.inl ⟨hb, .unprepare, hp, by decide, rfl⟩))
  · simp only [exec, execGetModes] at h
    rcases key .getModes _ h with h | ⟨hb, hp, rfl⟩ | ⟨hb, hp, rfl⟩
    · exact .inl h
    · exact .inr (.inl ⟨hb, _, hp, rfl⟩)
    · refine .inr (.inr (.inr (.inr ⟨hb, ?_⟩)))
      cases s.draw.alloc
      · exact .inl rfl
      · exact .inr rfl

/-! ## The micro-ops -/

/-- Everything RAIL can do (R152): wait, complete with Ok, raise PowerError, or record it in PEND and complete. -/
theorem rail_cases (s t : State) (fatal en : Bool) (h : execRail fatal en s = .next t) :
    (s.draw.resp = none ∧ t = s.issueRail en)
      ∨ (s.draw.resp = some .ok ∧ t = ((s.issueRail en).answered (.rail en .ok)).complete)
      ∨ (s.draw.resp = some .err ∧ fatal = true ∧ t = ((s.issueRail en).answered (.rail en .err)).raise .powerError)
      ∨ (s.draw.resp = some .err ∧ fatal = false
          ∧ t = State.complete { (s.issueRail en).answered (.rail en .err) with pend := .powerError }) := by
  simp only [execRail, State.issueRail_draw, Host.Outcome.next.injEq] at h
  subst h
  cases s.draw.resp with
  | none => simp
  | some r => cases r <;> cases fatal <;> simp

/-- Everything a DCS micro-op can do (R163): wait, complete, or complete with a WARN bit set. -/
theorem dcs_cases (s : State) (cmd : DcsCmd) (widx : BitVec 2) :
    (s.draw.resp = none ∧ s.dcs cmd widx = s.issue (.dcs cmd))
      ∨ (s.draw.resp = some .ok ∧ s.dcs cmd widx = ((s.issue (.dcs cmd)).answered (.dcs cmd .ok)).complete)
      ∨ (s.draw.resp = some .err ∧ s.dcs cmd widx =
          State.complete { (s.issue (.dcs cmd)).answered (.dcs cmd .err) with warn := warnSet s.warn widx }) := by
  unfold State.dcs
  simp only [State.issue_draw, State.answered_warn, State.issue_warn]
  cases s.draw.resp with
  | none => simp
  | some r => cases r <;> simp

/-- Everything WAIT can do (R156): wait with T0 set, or complete once the gate is open. -/
theorem wait_cases (s t : State) (ms : BitVec 12) (h : execWait ms s = .next t) :
    (s.now < s.beginWait.t0 + gateMicros ms ∧ t = s.beginWait)
      ∨ (s.beginWait.t0 + gateMicros ms ≤ s.now ∧ t = s.beginWait.complete) := by
  unfold execWait at h
  injection h with h
  by_cases hg : s.beginWait.t0 + gateMicros ms ≤ s.beginWait.now
  · rw [if_pos hg] at h
    exact .inr ⟨hg, h.symm⟩
  · rw [if_neg hg] at h
    rw [State.beginWait_now] at hg
    exact .inl ⟨by omega, h.symm⟩

/-- Everything one record of the replay can do (R160). -/
theorem replayRecord_cases (s : State) (b0 b1 : Byte) :
    (s.draw.resp = none ∧ s.replayRecord b0 b1 = s.issue (.write s.ri b0 b1))
      ∨ (s.draw.resp = some .ok ∧ s.replayRecord b0 b1 =
          ((s.issue (.write s.ri b0 b1)).answered (.write s.ri b0 b1 .ok)).countRecord)
      ∨ (s.draw.resp = some .err ∧ s.replayRecord b0 b1 =
          ((s.issue (.write s.ri b0 b1)).answered (.write s.ri b0 b1 .err)).raise .transportError) := by
  unfold State.replayRecord
  simp only [State.issue_draw, State.issue_ri]
  cases s.draw.resp with
  | none => simp
  | some r => cases r <;> simp

/-- Everything REPLAY can do (R160): begin, write record RI, or complete. -/
theorem replay_cases (s t : State) (h : execReplay s = .next t) :
    (s.phase = .fresh ∧ t = { s with recIdx := 0#16, ri := 0, phase := .begun })
      ∨ (s.phase ≠ .fresh ∧ s.ri < s.cfg.nRec.toNat
          ∧ t = s.replayRecord (Memory.read s.cfg.table (2 * s.ri)) (Memory.read s.cfg.table (2 * s.ri + 1)))
      ∨ (s.phase ≠ .fresh ∧ s.cfg.nRec.toNat ≤ s.ri ∧ t = s.complete) := by
  unfold execReplay at h
  split at h
  · rename_i hp
    simp only [Host.Outcome.next.injEq] at h
    exact .inl ⟨hp, h.symm⟩
  all_goals
    rename_i hp
    have hf : s.phase ≠ .fresh := by simp [hp]
    split at h
    · rename_i hlt
      simp only [tableRead_of_lt s.cfg s.ri hlt, Host.Outcome.next.injEq] at h
      exact .inr (.inl ⟨hf, hlt, h.symm⟩)
    · rename_i hlt
      simp only [Host.Outcome.next.injEq] at h
      exact .inr (.inr ⟨hf, by omega, h.symm⟩)

/-! ## The host's accesses -/

/-- What a host access that gives a next state did, other than run an instruction. -/
inductive HostEffect (s : State) : State → Prop where
  /-- nothing: no instance is live (R223 f) -/
  | dead (h : s.live = false) : HostEffect s s
  /-- a register was read (R22) -/
  | read (h : s.live = true) (n : Nat) (r : HostReg) (hr : HostReg.ofNum n = some r) : HostEffect s (s.reading n r)
  /-- an unmapped register was read (R38) -/
  | readUnmapped (h : s.live = true) (n : Nat) : HostEffect s { s.violate with readData := some (n, 0#32) }
  /-- a protocol violation (R223) -/
  | violation (h : s.live = true) : HostEffect s s.violate
  /-- an MO or DI register was written (R35) -/
  | bank (h : s.live = true) (v : HostWord) (r : BankReg) : HostEffect s { s with bank := s.bank.set v r }
  /-- a command word was written and its instruction ran (R110) -/
  | command (h : s.live = true) (i : Instr) (t : State)
      (hi : i = .prepare ∨ i = .enable ∨ i = .disable ∨ i = .unprepare ∨ i = .getModes)
      (ht : exec i s = .next t) : HostEffect s t
  /-- attach found no PanelConfig (R250) -/
  | notFound (h : s.live = false) : HostEffect s { s with attachResult := .notFound }
  /-- attach created an instance (R250) -/
  | create (h : s.live = false) (c : PanelConfig) (hc : ∃ k, (k, c) ∈ s.registry) : HostEffect s (s.create c)
  /-- detach was asked for (R252) -/
  | detach (h : s.live = true) : HostEffect s { s with detaching := true }

theorem lookup_mem (registry : List (CompatKey × PanelConfig)) (key : CompatKey) (c : PanelConfig)
    (h : lookup registry key = some c) : ∃ k, (k, c) ∈ registry := by
  unfold lookup at h
  rw [Option.map_eq_some_iff] at h
  obtain ⟨e, he, rfl⟩ := h
  exact ⟨e.1, List.mem_of_find?_eq_some he⟩

/-- Everything a host access can do. -/
theorem hostAccess_cases (a : HostAccess) (s t : State) (h : hostAccess a s = .next t) : HostEffect s t := by
  cases hl : s.live with
  | false =>
    cases a with
    | read n => simp [hostAccess, hl] at h; subst h; exact .dead hl
    | write n v => simp [hostAccess, hl] at h; subst h; exact .dead hl
    | detach => simp [hostAccess, detach, hl] at h; subst h; exact .dead hl
    | attach key =>
      simp only [hostAccess, attach] at h
      rw [if_neg (by simp [hl])] at h
      split at h
      · cases h; exact .notFound hl
      · rename_i c hc; cases h; exact .create hl c (lookup_mem _ _ _ hc)
  | true =>
    cases a with
    | read n =>
      simp only [hostAccess, hostRead] at h
      rw [if_pos hl] at h
      split at h
      · cases h; exact .readUnmapped hl n
      · rename_i r hr
        cases h
        exact .read hl n r hr
    | write n v =>
      simp only [hostAccess, hostWrite] at h
      rw [if_pos hl] at h
      split at h
      · split at h
        · rename_i i hi
          exact .command hl i t (decodeHost_cases v i hi) h
        · cases h; exact .violation hl
      · cases h; exact .bank hl _ _
      all_goals cases h; exact .violation hl
    | detach =>
      simp only [hostAccess, detach] at h
      rw [if_pos hl] at h
      split at h
      · cases h
      · cases h; exact .detach hl
    | attach key => simp [hostAccess, attach, hl] at h

/-! ## The step -/

theorem afterTurn_cases (o : Host.Outcome State Fault Refusal) (t : State) (h : afterTurn o = .next t) :
    ∃ u, o = .next u ∧ t = u.settleDetach := by
  cases o with
  | next u => cases h; exact ⟨u, rfl, rfl⟩
  | fault r => cases h
  | refused r => cases h

theorem runMicroOp_cases (s t : State) (h : runMicroOp s = .next t) :
    ∃ w i, s.fetch = some w ∧ decodeUop w = .ok i ∧ exec i s = .next t := by
  unfold runMicroOp at h
  split at h
  · cases h
  · rename_i w hw
    split at h
    · cases h
    · rename_i i hi
      exact ⟨w, i, hw, hi, h⟩

/-- Everything a step that gives a next state can do: stay idle, let the host act, or run the micro-op at UPC. -/
theorem step_cases (s t : State) (h : step s = .next t) :
    (s.nextInput.host = none ∧ ¬ (s.live = true ∧ s.busy = true) ∧ t = s.arrive)
      ∨ (∃ a u, s.nextInput.host = some a ∧ HostEffect s.arrive u ∧ t = u.settleDetach)
      ∨ (∃ w i u, s.nextInput.host = none ∧ s.live = true ∧ s.busy = true ∧ s.fetch = some w ∧ decodeUop w = .ok i
          ∧ exec i s.arrive = .next u ∧ t = u.settleDetach) := by
  unfold step takeTurn at h
  split at h
  · rename_i a ha
    obtain ⟨u, hu, rfl⟩ := afterTurn_cases _ _ h
    exact .inr (.inl ⟨a, u, ha, hostAccess_cases _ _ _ hu, rfl⟩)
  · rename_i ha
    split at h
    · rename_i hb
      obtain ⟨u, hu, rfl⟩ := afterTurn_cases _ _ h
      obtain ⟨w, i, hw, hi, he⟩ := runMicroOp_cases _ _ hu
      exact .inr (.inr ⟨w, i, u, ha, hb.1, hb.2, hw, hi, he, rfl⟩)
    · rename_i hb
      cases h
      exact .inl ⟨ha, hb, rfl⟩

/-- A waiting detach does nothing while an operation runs. -/
theorem settleDetach_busy (s : State) (h : s.busy = true) : s.settleDetach = s := by
  simp [State.settleDetach, h]

theorem settleDetach_not_detaching (s : State) (h : s.detaching = false) : s.settleDetach = s := by
  simp [State.settleDetach, h]

/-- Everything a waiting detach can do. -/
theorem settleDetach_cases (s : State) :
    s.settleDetach = s
      ∨ (s.detaching = true ∧ s.busy = false ∧ s.lifeState = .unpowered ∧ s.settleDetach = s.destroy)
      ∨ (s.detaching = true ∧ s.busy = false ∧ s.lifeState ≠ .unpowered ∧ s.settleDetach = s.enter .unprepare) := by
  unfold State.settleDetach
  split
  · rename_i h
    split
    · exact .inr (.inl ⟨h.1, by simpa using h.2, ‹_›, rfl⟩)
    · exact .inr (.inr ⟨h.1, by simpa using h.2, ‹_›, rfl⟩)
  · exact .inl rfl

/-! ## The fixed programs, R90 -/

/-- The micro-op at each position of the fixed programs. -/
def programInstr : HostOp → Nat → Option Instr
  | .prepare, 0 => some (.rail true true)
  | .prepare, 1 => some (.rst .low)
  | .prepare, 2 => some (.wait 120#12)
  | .prepare, 3 => some (.rst .high)
  | .prepare, 4 => some (.wait 120#12)
  | .prepare, 5 => some (.setst 1#3)
  | .prepare, 6 => some .endProgram
  | .enable, 0 => some (.wait 10#12)
  | .enable, 1 => some .replay
  | .enable, 2 => some (.setst 2#3)
  | .enable, 3 => some (.wait 120#12)
  | .enable, 4 => some (.dcsExitSleep 0#2)
  | .enable, 5 => some (.dcsDisplayOn 1#2)
  | .enable, 6 => some (.setst 3#3)
  | .enable, 7 => some .endProgram
  | .disable, 0 => some (.dcsDisplayOff 2#2)
  | .disable, 1 => some (.dcsEnterSleep 3#2)
  | .disable, 2 => some (.setst 4#3)
  | .disable, 3 => some .endProgram
  | .unprepare, 0 => some (.rst .low)
  | .unprepare, 1 => some (.wait 120#12)
  | .unprepare, 2 => some (.rail false false)
  | .unprepare, 3 => some (.setst 0#3)
  | .unprepare, 4 => some .endProgram
  | _, _ => none

/-- The micro-op at each position of a program, as a list of cases. -/
theorem program_prepare (k : Nat) (i : Instr) (h : programInstr .prepare k = some i) :
    (k = 0 ∧ i = .rail true true)
      ∨ (k = 1 ∧ i = .rst .low)
      ∨ (k = 2 ∧ i = .wait 120#12)
      ∨ (k = 3 ∧ i = .rst .high)
      ∨ (k = 4 ∧ i = .wait 120#12)
      ∨ (k = 5 ∧ i = .setst 1#3)
      ∨ (k = 6 ∧ i = .endProgram) := by
  rcases k with _ | _ | _ | _ | _ | _ | _ | k <;> simp_all [programInstr]

theorem program_enable (k : Nat) (i : Instr) (h : programInstr .enable k = some i) :
    (k = 0 ∧ i = .wait 10#12)
      ∨ (k = 1 ∧ i = .replay)
      ∨ (k = 2 ∧ i = .setst 2#3)
      ∨ (k = 3 ∧ i = .wait 120#12)
      ∨ (k = 4 ∧ i = .dcsExitSleep 0#2)
      ∨ (k = 5 ∧ i = .dcsDisplayOn 1#2)
      ∨ (k = 6 ∧ i = .setst 3#3)
      ∨ (k = 7 ∧ i = .endProgram) := by
  rcases k with _ | _ | _ | _ | _ | _ | _ | _ | k <;> simp_all [programInstr]

theorem program_disable (k : Nat) (i : Instr) (h : programInstr .disable k = some i) :
    (k = 0 ∧ i = .dcsDisplayOff 2#2)
      ∨ (k = 1 ∧ i = .dcsEnterSleep 3#2)
      ∨ (k = 2 ∧ i = .setst 4#3)
      ∨ (k = 3 ∧ i = .endProgram) := by
  rcases k with _ | _ | _ | _ | k <;> simp_all [programInstr]

theorem program_unprepare (k : Nat) (i : Instr) (h : programInstr .unprepare k = some i) :
    (k = 0 ∧ i = .rst .low)
      ∨ (k = 1 ∧ i = .wait 120#12)
      ∨ (k = 2 ∧ i = .rail false false)
      ∨ (k = 3 ∧ i = .setst 0#3)
      ∨ (k = 4 ∧ i = .endProgram) := by
  rcases k with _ | _ | _ | _ | _ | k <;> simp_all [programInstr]

/-- With the fixed ROM, the word at each position decodes to that micro-op, and past the end there is no word. -/
theorem fixed_decodes (op : HostOp) (k : Nat) :
    (∃ w i, (microProgram MicroRom.fixed op)[k]? = some w ∧ decodeUop w = .ok i ∧ programInstr op k = some i)
      ∨ ((microProgram MicroRom.fixed op)[k]? = none ∧ programInstr op k = none) := by
  cases op <;> simp only [microProgram, MicroRom.fixed]
  case prepare =>
    rcases k with _ | _ | _ | _ | _ | _ | _ | k
    · exact .inl ⟨_, _, rfl, decodeUop_1003, rfl⟩
    · exact .inl ⟨_, _, rfl, decodeUop_2000, rfl⟩
    · exact .inl ⟨_, _, rfl, decodeUop_3078, rfl⟩
    · exact .inl ⟨_, _, rfl, decodeUop_2001, rfl⟩
    · exact .inl ⟨_, _, rfl, decodeUop_3078, rfl⟩
    · exact .inl ⟨_, _, rfl, decodeUop_6001, rfl⟩
    · exact .inl ⟨_, _, rfl, decodeUop_0000, rfl⟩
    · exact .inr ⟨rfl, rfl⟩
  case enable =>
    rcases k with _ | _ | _ | _ | _ | _ | _ | _ | k
    · exact .inl ⟨_, _, rfl, decodeUop_300A, rfl⟩
    · exact .inl ⟨_, _, rfl, decodeUop_4000, rfl⟩
    · exact .inl ⟨_, _, rfl, decodeUop_6002, rfl⟩
    · exact .inl ⟨_, _, rfl, decodeUop_3078, rfl⟩
    · exact .inl ⟨_, _, rfl, decodeUop_5011, rfl⟩
    · exact .inl ⟨_, _, rfl, decodeUop_5129, rfl⟩
    · exact .inl ⟨_, _, rfl, decodeUop_6003, rfl⟩
    · exact .inl ⟨_, _, rfl, decodeUop_0000, rfl⟩
    · exact .inr ⟨rfl, rfl⟩
  case disable =>
    rcases k with _ | _ | _ | _ | k
    · exact .inl ⟨_, _, rfl, decodeUop_5228, rfl⟩
    · exact .inl ⟨_, _, rfl, decodeUop_5310, rfl⟩
    · exact .inl ⟨_, _, rfl, decodeUop_6004, rfl⟩
    · exact .inl ⟨_, _, rfl, decodeUop_0000, rfl⟩
    · exact .inr ⟨rfl, rfl⟩
  case unprepare =>
    rcases k with _ | _ | _ | _ | _ | k
    · exact .inl ⟨_, _, rfl, decodeUop_2000, rfl⟩
    · exact .inl ⟨_, _, rfl, decodeUop_3078, rfl⟩
    · exact .inl ⟨_, _, rfl, decodeUop_1000, rfl⟩
    · exact .inl ⟨_, _, rfl, decodeUop_6000, rfl⟩
    · exact .inl ⟨_, _, rfl, decodeUop_0000, rfl⟩
    · exact .inr ⟨rfl, rfl⟩
  case getModes => exact .inr ⟨by simp, by cases k <;> rfl⟩

/-- What a step of the sequencer runs with the fixed ROM. -/
theorem fixed_fetch (s : State) (op : HostOp) (w : UopWord) (i : Instr) (hrom : s.urom = MicroRom.fixed)
    (hop : s.curOp = some op) (hw : s.fetch = some w) (hi : decodeUop w = .ok i) : programInstr op s.upc = some i := by
  simp only [State.fetch, hop, hrom] at hw
  rcases fixed_decodes op s.upc with ⟨w', i', hw', hi', hp⟩ | ⟨hn, -⟩
  · rw [hw] at hw'
    cases hw'
    rw [hi] at hi'
    cases hi'
    exact hp
  · rw [hw] at hn
    cases hn

end Sys2Proof.Machine
end

