-- ==== Sys2Proof/Machine/Assembly.lean ====
section
/-! DEFINITION. The assembler notation and the host's pseudo-instructions (R94, R95). The block sees only the writes to CMD
that they expand to. -/

namespace Sys2Proof.Machine

/-- The HOSTCMD word `zext_32(OP)` (R94). -/
def HostOp.word (op : HostOp) : HostWord := 0#29 ++ op.code

/-- A line of a host program: an operation or a pseudo-instruction (R94, R95). -/
inductive HostLine where
  | single (op : HostOp)
  | bringup
  | teardown
  | forceOff
  deriving DecidableEq, Repr

/-- One command of an expansion; `onlyIfOk` means that the host issues it only if RESULT is Ok (R95). -/
structure HostCommand where
  onlyIfOk : Bool
  op : HostOp
  deriving DecidableEq, Repr

/-- The expansions of R95. -/
def HostLine.expand : HostLine → List HostCommand
  | .single op => [⟨false, op⟩]
  | .bringup => [⟨false, .prepare⟩, ⟨true, .enable⟩]
  | .teardown => [⟨false, .disable⟩, ⟨false, .unprepare⟩]
  | .forceOff => [⟨false, .unprepare⟩]

/-- The write that a command is, issued when BUSY is 0 (R94). -/
def HostCommand.access (c : HostCommand) : HostAccess := .write 0x00 c.op.word

/-- The notation of the state codes in SETST (R94); a code without a state has none. -/
def stateName (c : BitVec 3) : String :=
  match LifeState.ofCode c with
  | some .unpowered => "Unpowered"
  | some .resetting => "Resetting"
  | some .configured => "Configured"
  | some .active => "Active"
  | some .sleeping => "Sleeping"
  | none => "illegal"

/-- The notation of a DCS micro-op (R94). -/
def dcsText (name : String) (widx : BitVec 2) : String := "DCS " ++ name ++ ", w" ++ toString widx.toNat

/-- An instruction as a line of assembly (R94). -/
def asmText : Instr → String
  | .prepare => "PREPARE"
  | .enable => "ENABLE"
  | .disable => "DISABLE"
  | .unprepare => "UNPREPARE"
  | .getModes => "GET_MODES"
  | .endProgram => "END"
  | .rail fatal en => "RAIL " ++ (if en then "on" else "off") ++ ", " ++ (if fatal then "fatal" else "nonfatal")
  | .rst .low => "RST low"
  | .rst .high => "RST high"
  | .wait ms => "WAIT " ++ toString ms.toNat
  | .replay => "REPLAY"
  | .dcsEnterSleep widx => dcsText "enter_sleep" widx
  | .dcsExitSleep widx => dcsText "exit_sleep" widx
  | .dcsDisplayOff widx => dcsText "display_off" widx
  | .dcsDisplayOn widx => dcsText "display_on" widx
  | .setst c => "SETST " ++ stateName c

end Sys2Proof.Machine
end

