-- ==== Sys2Proof/Safety.lean ====
section
/-! DEFINITION. What counts as a safe run, in the terms the claims use: the observation (R13), faulted and final states (R223,
R233), and the invariants of the fixed micro-programs. -/

namespace Sys2Proof.Machine

/-! ## Observation, R13 -/

/-- An event as it is observed: completed, or issued at `ts` and not completed, which is how the trace of a hang ends (R13). The
request says which RAIL, WRITE or DCS event it is. -/
inductive Observed where
  | completed (e : Event)
  | issued (req : Request) (ts : Nat)
  deriving DecidableEq, Repr

/-- The issued event that has no answer yet, if there is one (R13, R233). -/
def Phase.outstanding : Phase → List Observed
  | .awaiting req ts => [.issued req ts]
  | .fresh | .begun => []

/-- The event trace, oldest event first, and the host-visible registers (R13). -/
structure Observation where
  events : List Observed
  status : HostWord
  result : HostWord
  warn : HostWord
  recIdx : HostWord
  cfgNrec : HostWord
  cfgLink : HostWord
  bank : ModeBank
  deriving DecidableEq, Repr

def State.observe (s : State) : Observation where
  events := s.trace.reverse.map .completed ++ s.phase.outstanding
  status := statusWord s
  result := resultWord s
  warn := warnWord s
  recIdx := recIdxWord s
  cfgNrec := cfgNrecWord s.cfg
  cfgLink := cfgLinkWord s.cfg
  bank := s.bank

/-! ## Faulted, final and hanging states -/

/-- A faulted state: the host has violated the protocol (R223 a to e; of f, log 1) or read an unwritten MO or DI register (R23, U12; log 3). -/
abbrev State.Faulted (s : State) : Prop := s.protoFault = true ∨ s.readFault = true

/-- A final state: the instance is idle and not faulted. The spec says only which states are not final, the faulted and the hanging
ones (R223, R233). DESIGN CHOICE (log 24): final are the states of a live instance with BUSY 0 that are not faulted, so neither a
running operation nor an instance that a detach has destroyed is final. -/
abbrev State.Final (s : State) : Prop := s.live = true ∧ s.busy = false ∧ ¬ s.Faulted

/-- An external request is outstanding (R233). -/
abbrev State.Awaiting (s : State) : Prop := s.live = true ∧ s.busy = true ∧ ∃ req ts, s.phase = .awaiting req ts

/-- A register number that the map of R23 does not list (R38). -/
abbrev unmapped (n : Nat) : Prop := ¬ (n ≤ 0x06 ∨ (0x10 ≤ n ∧ n ≤ 0x1F))

/-- A word that spells no host operation: OP of 5, 6 or 7, or a non-zero reserved bit (R93). -/
abbrev spellsNoOp (v : HostWord) : Prop := 5 ≤ (v.extractLsb' 0 3).toNat ∨ v.extractLsb' 3 29 ≠ 0

/-- The violations of a live instance's host (R223 a to e): a write to CMD while BUSY or with a word that spells no operation,
an access to an unmapped register, a write to a read-only register. An access without an instance (R223 f) is not among them: it
changes nothing and marks nothing (log 1). -/
def State.Violates (s : State) : HostAccess → Prop
  | .read n => unmapped n
  | .write n v => unmapped n ∨ (1 ≤ n ∧ n ≤ 6) ∨ (n = 0 ∧ (s.busy = true ∨ spellsNoOp v))
  | .attach _ | .detach => False

/-- The step from `s` to `t` ends the operation with result `r`: DONE is its newest event (R171, R172). -/
abbrev State.EndsWith (s t : State) (r : ResultCode) : Prop :=
  ∃ op older, t.trace = ⟨.done op r, t.now, t.now⟩ :: older ∧ (older = s.trace ∨ ∃ e, older = e :: s.trace)

/-- The request of the micro-op at UPC is issued at `ts`: it was issued then and waits for its answer, or it is issued in this
step (R13, R62). -/
abbrev State.IssuedAt (s : State) (ts : Nat) : Prop :=
  (∃ req, s.phase = .awaiting req ts) ∨ (s.requesting = false ∧ ts = s.now)

/-! ## The configuration -/

/-- Every PanelConfig the instance can have meets R7, R51 and R192. -/
abbrev State.Configured (s : State) : Prop := s.cfg.wf = true ∧ ∀ e ∈ s.registry, e.2.wf = true

/-! ## The order of the trace, R13 and R62 -/

/-- When the newest event completed; 0 for an empty trace. -/
def lastTc : List Event → Nat
  | [] => 0
  | e :: _ => e.tc

/-- `ts <= tc` for each event, and `tc(e1) <= ts(e2)` for consecutive events e1, e2 (the list has the newest first). -/
def Ordered : List Event → Prop
  | [] => True
  | e :: older => e.ts ≤ e.tc ∧ lastTc older ≤ e.ts ∧ Ordered older

/-- The trace is ordered, nothing the state records lies in the future, and an outstanding request was issued after every event
and after the previous micro-op completed. -/
structure State.Clocked (s : State) : Prop where
  ordered : Ordered s.trace
  past : lastTc s.trace ≤ s.now
  done : s.lastDone ≤ s.now
  outstanding : ∀ req ts, s.busy = true → s.phase = .awaiting req ts →
    lastTc s.trace ≤ ts ∧ s.lastDone ≤ ts ∧ ts ≤ s.now

/-! ## Where the micro-program stands, R26, R90, R238 -/

/-- RAIL_REQ and RESET_N of a powered, released panel (R238, R262). -/
abbrev State.Powered (s : State) : Prop := s.railReq = .on ∧ s.resetN = .driven .high

/-- What holds of the registers while `op` runs and UPC is the next micro-op of its program (R90). -/
def State.At (s : State) : HostOp → Prop
  | .prepare =>
    s.upc ≤ 6 ∧ s.pend = .ok ∧ s.warn = 0#4
      ∧ s.lifeState = (if s.upc = 6 then .resetting else .unpowered)
      ∧ (1 ≤ s.upc ∨ s.requesting = true → s.railReq = .on)
      ∧ (s.upc = 2 ∨ s.upc = 3 → s.resetN = .driven .low)
      ∧ (4 ≤ s.upc → s.resetN = .driven .high)
  | .enable =>
    s.upc ≤ 7 ∧ s.pend = .ok ∧ s.Powered ∧ (s.upc ≤ 4 → s.warn = 0#4) ∧ s.warn &&& 0b1100#4 = 0#4
      ∧ s.lifeState = (if s.upc ≤ 2 then .resetting else if s.upc = 7 then .active else .configured)
  | .disable =>
    s.upc ≤ 3 ∧ s.pend = .ok ∧ s.Powered ∧ s.warn &&& 0b0011#4 = 0#4
      ∧ s.lifeState = (if s.upc = 3 then .sleeping else .active)
  | .unprepare =>
    s.upc ≤ 4 ∧ (s.upc ≤ 2 → s.pend = .ok) ∧ s.lifeState ≠ .configured
      ∧ (1 ≤ s.upc → s.resetN = .driven .low)
      ∧ (3 ≤ s.upc ∨ (s.upc = 2 ∧ s.requesting = true) → s.railReq = .off)
      ∧ (s.upc = 4 → s.lifeState = .unpowered)
  | .getModes => False

/-- The positions of the WAIT micro-ops in the fixed programs (R90). -/
def waitsAt : HostOp → Nat → Bool
  | .prepare, k => k == 2 || k == 4
  | .enable, k => k == 0 || k == 3
  | .disable, _ => false
  | .unprepare, k => k == 1
  | .getModes, _ => false

/-- What holds of a live, idle instance: STATE is not Configured (R26), and outside Unpowered the panel is powered (R238). -/
abbrev State.Rest (s : State) : Prop := s.lifeState ≠ .configured ∧ (s.lifeState ≠ .unpowered → s.Powered)

/-- The invariant of the sequencer with the fixed ROM: a running program stands where `State.At` says, a WAIT that has begun has
T0 at the completion of the micro-op before it (R156), an idle instance rests, and a detach waits only for a running operation
(R252). -/
structure State.Sequenced (s : State) : Prop where
  rom : s.urom = MicroRom.fixed
  running : s.live = true → s.busy = true → ∃ op, s.curOp = some op ∧ s.At op
  waiting : s.live = true → s.busy = true → ∀ op, s.curOp = some op → waitsAt op s.upc = true → s.phase = .begun →
    s.t0 = s.lastDone
  resting : s.live = true → s.busy = false → s.Rest
  detach : s.detaching = true → s.live = true ∧ s.busy = true

/-! ## The replay, R161 -/

/-- The kinds of the WRITE events of records `0` to `k - 1`, all answered Ok, newest first (R161). -/
def writesOk (c : PanelConfig) : Nat → List EventKind
  | 0 => []
  | k + 1 => .write k (Memory.read c.table (2 * k)) (Memory.read c.table (2 * k + 1)) .ok :: writesOk c k

/-- The replay loop is running: ENABLE's REPLAY micro-op has begun (R160). -/
abbrev State.Replaying (s : State) : Prop :=
  s.live = true ∧ s.busy = true ∧ s.curOp = some .enable ∧ s.upc = 1 ∧ s.phase ≠ .fresh

/-- REC_IDX never exceeds N_REC and equals it once the replay has succeeded (R31, R161); while the loop runs it equals RI, and
the newest RI events are the records written so far, in table order, after the ACCEPT of the ENABLE. -/
structure State.Replayed (s : State) : Prop where
  bound : s.recIdx.toNat ≤ s.cfg.nRec.toNat
  loop : s.Replaying → s.ri = s.recIdx.toNat ∧
    ∃ older, s.trace.map (·.kind) = writesOk s.cfg s.ri ++ .accept .enable :: older
  written : s.live = true → s.lifeState = .configured ∨ s.lifeState = .active ∨ s.lifeState = .sleeping →
    s.recIdx = s.cfg.nRec
  entered : s.live = true → s.busy = true → s.curOp = some .enable → s.upc = 0 ∨ (s.upc = 1 ∧ s.phase = .fresh) →
    ∃ older, s.trace.map (·.kind) = .accept .enable :: older
  replayed : s.live = true → s.busy = true → s.curOp = some .enable → s.upc = 2 → s.recIdx = s.cfg.nRec

/-! ## The timing gates, R157 and R260 -/

/-- The gate between an event and the next one, in microseconds (R260: G1, G2, G3, G4, G5); 0 where R261 asks for none. -/
def gateBetween : EventKind → EventKind → Nat
  | .rst .low, .rst .high => 120000
  | .rst .high, .state .resetting => 120000
  | .accept .enable, .write _ _ _ _ => 10000
  | .accept .enable, .state .configured => 10000
  | .state .configured, .dcs .exitSleep _ => 120000
  | .rst .low, .rail false _ => 120000
  | _, _ => 0

/-- Every gate is kept between consecutive events (the newest is first). -/
def GatesKept : List Event → Prop
  | [] => True
  | [_] => True
  | e2 :: e1 :: older => e1.tc + gateBetween e1.kind e2.kind ≤ e2.ts ∧ GatesKept (e1 :: older)

/-- The newest event is `k`, and it completed at least `us` microseconds before the micro-op at UPC could begin. -/
abbrev State.Newest (s : State) (k : EventKind) (us : Nat) : Prop :=
  ∃ e older, s.trace = e :: older ∧ e.kind = k ∧ e.tc + us ≤ s.lastDone

/-- The newest event is a record write that was answered Ok. -/
abbrev State.NewestIsWrite (s : State) : Prop :=
  ∃ e older i b0 b1, s.trace = e :: older ∧ e.kind = .write i b0 b1 .ok

/-- Which gate runs (0) or has opened (its length) where the program of `op` stands (R90, R260). -/
def State.GateAt (s : State) : HostOp → Prop
  | .prepare =>
    (s.upc = 2 → s.Newest (.rst .low) 0) ∧ (s.upc = 3 → s.Newest (.rst .low) 120000)
      ∧ (s.upc = 4 → s.Newest (.rst .high) 0) ∧ (s.upc = 5 → s.Newest (.rst .high) 120000)
  | .enable =>
    (s.upc = 0 → s.Newest (.accept .enable) 0)
      ∧ (s.upc = 1 → s.phase = .fresh ∨ s.ri = 0 → s.Newest (.accept .enable) 10000)
      ∧ (s.upc = 1 → s.phase ≠ .fresh → s.ri ≠ 0 → s.NewestIsWrite)
      ∧ (s.upc = 2 → s.Newest (.accept .enable) 10000 ∨ s.NewestIsWrite)
      ∧ (s.upc = 3 → s.Newest (.state .configured) 0) ∧ (s.upc = 4 → s.Newest (.state .configured) 120000)
  | .disable => True
  | .unprepare => (s.upc = 1 → s.Newest (.rst .low) 0) ∧ (s.upc = 2 → s.Newest (.rst .low) 120000)
  | .getModes => True

/-- The gates are kept in the whole trace, and the running program stands behind the gate its position asks for. -/
structure State.Gated (s : State) : Prop where
  kept : GatesKept s.trace
  running : s.live = true → s.busy = true → ∀ op, s.curOp = some op → s.GateAt op

/-! ## Traffic only on a powered, released panel, R262 -/

/-- When the reset line was last driven High: the completion of the newest RST(High). -/
def lastRelease : List Event → Option Nat
  | [] => none
  | ⟨.rst .high, _, tc⟩ :: _ => some tc
  | _ :: older => lastRelease older

/-- A transport event: a record write or a DCS command. -/
def EventKind.isTraffic : EventKind → Bool
  | .write _ _ _ _ | .dcs _ _ => true
  | .rail _ _ | .rst _ | .state _ | .accept _ | .done _ _ => false

/-- The last release of the reset line lies at least `us` microseconds before `t`. -/
abbrev ReleasedBefore (trace : List Event) (us t : Nat) : Prop := ∃ r, lastRelease trace = some r ∧ r + us ≤ t

/-- Every transport event was issued at least 130 ms after the last RST(High) before it (R262). -/
def TrafficSettled : List Event → Prop
  | [] => True
  | e :: older => (e.kind.isTraffic = true → ReleasedBefore older 130000 e.ts) ∧ TrafficSettled older

/-- Every transport event of the trace is settled, and by the time the micro-op at UPC can begin, the last release of the reset
line lies as far back as STATE and the running program need. -/
structure State.Settled (s : State) : Prop where
  traffic : TrafficSettled s.trace
  releasing : s.live = true → s.busy = true → s.curOp = some .prepare → s.upc = 4 → ReleasedBefore s.trace 0 s.lastDone
  released : s.live = true → s.busy = true → s.curOp = some .prepare → s.upc = 5 → ReleasedBefore s.trace 120000 s.lastDone
  resetting : s.live = true → s.lifeState = .resetting → ReleasedBefore s.trace 120000 s.lastDone
  enabling : s.live = true → s.busy = true → s.curOp = some .enable → 1 ≤ s.upc → ReleasedBefore s.trace 130000 s.lastDone
  active : s.live = true → s.lifeState = .active → ReleasedBefore s.trace 130000 s.lastDone

/-! ## Minimum durations, R266 -/

/-- When `op` was last accepted. -/
def lastAccept (op : HostOp) : List Event → Option Nat
  | [] => none
  | e :: older => if e.kind = .accept op then some e.tc else lastAccept op older

/-- `op` was last accepted at least `us` microseconds before `t`. -/
abbrev AcceptedBefore (trace : List Event) (op : HostOp) (us t : Nat) : Prop :=
  ∃ a, lastAccept op trace = some a ∧ a + us ≤ t

/-- The minimum from `ACCEPT(op)` to `DONE(op, r)` of an operation whose program runs (R266); 0 where it gives none. -/
def minDuration : HostOp → ResultCode → Nat
  | .prepare, .ok => 240000
  | .enable, .ok => 130000
  | .enable, .transportError => 10000
  | .unprepare, .ok | .unprepare, .powerError => 120000
  | _, _ => 0

/-- Every acceptance of `op` lies at least `us` microseconds before `t`. It asks for none: a detach runs UNPREPARE's program without
one (log 13). -/
abbrev NoneAcceptedWithin (trace : List Event) (op : HostOp) (us t : Nat) : Prop :=
  ∀ a, lastAccept op trace = some a → a + us ≤ t

/-- The newest event is the acceptance of an UNPREPARE: its DONE follows at once where it has no program to run (R131). -/
abbrev JustAccepted (trace : List Event) (t : Nat) : Prop :=
  ∃ ts older, trace = ⟨.accept .unprepare, ts, t⟩ :: older

/-- No PREPARE or ENABLE in the trace took less than its minimum, and no UNPREPARE whose program ran. -/
def DurationsKept : List Event → Prop
  | [] => True
  | e :: older =>
    (∀ op r, op ≠ .unprepare → e.kind = .done op r → 0 < minDuration op r →
        AcceptedBefore older op (minDuration op r) e.ts)
      ∧ (∀ r, e.kind = .done .unprepare r →
        JustAccepted older e.ts ∨ NoneAcceptedWithin older .unprepare (minDuration .unprepare r) e.ts)
      ∧ DurationsKept older

/-- How much of its gates the program of `op` has passed before the micro-op at UPC (R90, R260). -/
def gatesPassed : HostOp → Nat → Nat
  | .prepare, k => if k ≤ 2 then 0 else if k ≤ 4 then 120000 else 240000
  | .enable, k => if k = 0 then 0 else if k ≤ 3 then 10000 else 130000
  | .disable, _ => 0
  | .unprepare, k => if k ≤ 1 then 0 else 120000
  | .getModes, _ => 0

/-- The durations are kept in the whole trace, and a running PREPARE, ENABLE or UNPREPARE was accepted at least the gates passed
ago; only under a detach may an UNPREPARE run that no command asked for. -/
structure State.Paced (s : State) : Prop where
  kept : DurationsKept s.trace
  running : s.live = true → s.busy = true → ∀ op, s.curOp = some op → op = .prepare ∨ op = .enable →
    AcceptedBefore s.trace op (gatesPassed op s.upc) s.lastDone
  tearingDown : s.live = true → s.busy = true → s.curOp = some .unprepare →
    NoneAcceptedWithin s.trace .unprepare (gatesPassed .unprepare s.upc) s.lastDone
      ∧ (s.detaching = false → AcceptedBefore s.trace .unprepare (gatesPassed .unprepare s.upc) s.lastDone)

end Sys2Proof.Machine
end

