-- ==== Sys2Proof/Certificates/Slice0/Obligations.lean ====
section
/-! DEFINITION. The statements for the provers. A statement's docstring names the rules of spec/ it formalises, and the log
entry where it rests on a choice of the model. The fields phase and lastDone are the model's (log 5, log 6). -/

open Sys2Proof Sys2Proof.Machine

/-! ## Encoding -/

/-- Every well-formed instruction's word decodes back to it, with every operand at every value (R81, R84 to R88). -/
def Obligations.DecodeEncodeAgree : Prop :=
  ∀ i : Instr, i.wellFormed = true → decode (encode i) = .ok i

/-- A word that decodes is the word of the well-formed instruction it decodes to: no word has two meanings (R81, R87). -/
def Obligations.EncodeDecodeAgree : Prop :=
  ∀ (c : Code) (i : Instr), decode c = .ok i → i.wellFormed = true ∧ encode i = c

/-- R87: which words decode to which micro-op; every other word is illegal, and none decodes to a host operation. -/
def Obligations.MicroOpDecode : Prop :=
  ∀ (w : UopWord) (i : Instr), decodeUop w = .ok i ↔
    match i with
    | .endProgram => w.extractLsb' 12 4 = 0x0#4 ∧ w.extractLsb' 0 12 = 0
    | .rail fatal en =>
      w.extractLsb' 12 4 = 0x1#4 ∧ w.extractLsb' 2 10 = 0 ∧ w.getLsbD 0 = en ∧ w.getLsbD 1 = fatal
    | .rst level =>
      w.extractLsb' 12 4 = 0x2#4 ∧ w.extractLsb' 1 11 = 0 ∧ level = (if w.getLsbD 0 = true then .high else .low)
    | .wait ms => w.extractLsb' 12 4 = 0x3#4 ∧ w.extractLsb' 0 12 = ms
    | .replay => w.extractLsb' 12 4 = 0x4#4 ∧ w.extractLsb' 0 12 = 0
    | .dcsEnterSleep widx =>
      w.extractLsb' 12 4 = 0x5#4 ∧ w.extractLsb' 10 2 = 0 ∧ w.extractLsb' 0 8 = 0x10#8 ∧ w.extractLsb' 8 2 = widx
    | .dcsExitSleep widx =>
      w.extractLsb' 12 4 = 0x5#4 ∧ w.extractLsb' 10 2 = 0 ∧ w.extractLsb' 0 8 = 0x11#8 ∧ w.extractLsb' 8 2 = widx
    | .dcsDisplayOff widx =>
      w.extractLsb' 12 4 = 0x5#4 ∧ w.extractLsb' 10 2 = 0 ∧ w.extractLsb' 0 8 = 0x28#8 ∧ w.extractLsb' 8 2 = widx
    | .dcsDisplayOn widx =>
      w.extractLsb' 12 4 = 0x5#4 ∧ w.extractLsb' 10 2 = 0 ∧ w.extractLsb' 0 8 = 0x29#8 ∧ w.extractLsb' 8 2 = widx
    | .setst c =>
      w.extractLsb' 12 4 = 0x6#4 ∧ w.extractLsb' 3 9 = 0 ∧ w.extractLsb' 0 3 = c ∧ c.toNat ≤ 4
    | .prepare | .enable | .disable | .unprepare | .getModes => False

/-- R91: which micro-op words are illegal, that the fixed ROM holds none of them, and that the sequencer refuses one. -/
def Obligations.IllegalMicroOps : Prop :=
  (∀ w : UopWord, (∃ e, decodeUop w = .error e) ↔
    7 ≤ (w.extractLsb' 12 4).toNat
      ∨ ((w.extractLsb' 12 4 = 0x0#4 ∨ w.extractLsb' 12 4 = 0x4#4) ∧ w.extractLsb' 0 12 ≠ 0)
      ∨ (w.extractLsb' 12 4 = 0x1#4 ∧ w.extractLsb' 2 10 ≠ 0)
      ∨ (w.extractLsb' 12 4 = 0x2#4 ∧ w.extractLsb' 1 11 ≠ 0)
      ∨ (w.extractLsb' 12 4 = 0x5#4 ∧ w.extractLsb' 10 2 ≠ 0)
      ∨ (w.extractLsb' 12 4 = 0x5#4 ∧ w.extractLsb' 0 8 ∉ [0x10#8, 0x11#8, 0x28#8, 0x29#8])
      ∨ (w.extractLsb' 12 4 = 0x6#4 ∧ w.extractLsb' 3 9 ≠ 0)
      ∨ (w.extractLsb' 12 4 = 0x6#4 ∧ 5 ≤ (w.extractLsb' 0 3).toNat))
  ∧ (∀ op, ∀ w ∈ microProgram MicroRom.fixed op, ∃ i, decodeUop w = .ok i)
  ∧ (∀ (s : State) (w : UopWord) (e : DecodeError), s.nextInput.host = none → s.live = true → s.busy = true →
      s.fetch = some w → decodeUop w = .error e → step s = .refused (.illegalMicroOp w))

/-- R81: the fields of a HOSTCMD word, and the operation that each OP value names. -/
def Obligations.HostCommandDecode : Prop :=
  ∀ (w : HostWord) (i : Instr), decodeHost w = .ok i ↔
    w.extractLsb' 3 29 = 0 ∧
      match i with
      | .prepare => w.extractLsb' 0 3 = 0#3
      | .enable => w.extractLsb' 0 3 = 1#3
      | .disable => w.extractLsb' 0 3 = 2#3
      | .unprepare => w.extractLsb' 0 3 = 3#3
      | .getModes => w.extractLsb' 0 3 = 4#3
      | .endProgram | .rail _ _ | .rst _ | .wait _ | .replay => False
      | .dcsEnterSleep _ | .dcsExitSleep _ | .dcsDisplayOff _ | .dcsDisplayOn _ | .setst _ => False

/-- A word of each family, as the spec's vectors V1 and V8 decode it. -/
def Obligations.SampleWords : Prop :=
  decodeHost 0x00000000#32 = .ok .prepare ∧ decodeHost 0x00000004#32 = .ok .getModes
    ∧ decodeUop 0x1003#16 = .ok (.rail true true) ∧ decodeUop 0x2001#16 = .ok (.rst .high)
    ∧ decodeUop 0x3FFF#16 = .ok (.wait 4095#12) ∧ decodeUop 0x4000#16 = .ok .replay
    ∧ decodeUop 0x5129#16 = .ok (.dcsDisplayOn 1#2) ∧ decodeUop 0x6004#16 = .ok (.setst 4#3)
    ∧ decodeUop 0x0000#16 = .ok .endProgram

/-- R90: the words of the micro-program ROM after reset, and the assembly of each. -/
def Obligations.FixedPrograms : Prop :=
  State.reset.urom.prepare = [0x1003#16, 0x2000#16, 0x3078#16, 0x2001#16, 0x3078#16, 0x6001#16, 0x0000#16]
    ∧ State.reset.urom.enable =
      [0x300A#16, 0x4000#16, 0x6002#16, 0x3078#16, 0x5011#16, 0x5129#16, 0x6003#16, 0x0000#16]
    ∧ State.reset.urom.disable = [0x5228#16, 0x5310#16, 0x6004#16, 0x0000#16]
    ∧ State.reset.urom.unprepare = [0x2000#16, 0x3078#16, 0x1000#16, 0x6000#16, 0x0000#16]
    ∧ microProgram State.reset.urom .getModes = []
    ∧ State.reset.urom.prepare.map decodeUop =
      [.ok (.rail true true), .ok (.rst .low), .ok (.wait 120#12), .ok (.rst .high), .ok (.wait 120#12),
        .ok (.setst LifeState.resetting.code), .ok .endProgram]
    ∧ State.reset.urom.enable.map decodeUop =
      [.ok (.wait 10#12), .ok .replay, .ok (.setst LifeState.configured.code), .ok (.wait 120#12),
        .ok (.dcsExitSleep 0#2), .ok (.dcsDisplayOn 1#2), .ok (.setst LifeState.active.code), .ok .endProgram]
    ∧ State.reset.urom.disable.map decodeUop =
      [.ok (.dcsDisplayOff 2#2), .ok (.dcsEnterSleep 3#2), .ok (.setst LifeState.sleeping.code), .ok .endProgram]
    ∧ State.reset.urom.unprepare.map decodeUop =
      [.ok (.rst .low), .ok (.wait 120#12), .ok (.rail false false), .ok (.setst LifeState.unpowered.code),
        .ok .endProgram]

/-- R82: the state codes; 5, 6 and 7 name no state. -/
def Obligations.StateCodes : Prop :=
  LifeState.unpowered.code = 0#3 ∧ LifeState.resetting.code = 1#3 ∧ LifeState.configured.code = 2#3
    ∧ LifeState.active.code = 3#3 ∧ LifeState.sleeping.code = 4#3
    ∧ (∀ (c : BitVec 3) (st : LifeState), LifeState.ofCode c = some st ↔ st.code = c)
    ∧ (∀ c : BitVec 3, 5 ≤ c.toNat ↔ LifeState.ofCode c = none)

/-- R83: the result codes; code 6 is never produced, and no step of a live instance leaves `NotFound` in RESULT. -/
def Obligations.ResultCodes : Prop :=
  ResultCode.ok.code = 0#3 ∧ ResultCode.powerError.code = 1#3 ∧ ResultCode.transportError.code = 2#3
    ∧ ResultCode.stateError.code = 3#3 ∧ ResultCode.allocationError.code = 4#3 ∧ ResultCode.notFound.code = 5#3
    ∧ ResultCode.none.code = 7#3 ∧ (∀ r : ResultCode, r.code ≠ 6#3)
    ∧ State.reset.result ≠ .notFound
    ∧ (∀ s t : State, step s = .next t → s.result ≠ .notFound → t.result ≠ .notFound)

/-- R94, R95: the word of each operation, and the expansions of the pseudo-instructions. -/
def Obligations.HostNotation : Prop :=
  (∀ op : HostOp, op.word.extractLsb' 0 3 = op.code ∧ op.word.extractLsb' 3 29 = 0 ∧ decodeHost op.word = .ok op.instr)
    ∧ HostLine.bringup.expand = [⟨false, .prepare⟩, ⟨true, .enable⟩]
    ∧ HostLine.teardown.expand = [⟨false, .disable⟩, ⟨false, .unprepare⟩]
    ∧ HostLine.forceOff.expand = [⟨false, .unprepare⟩]

/-! ## Reset, attach and detach -/

/-- The reset value of every row of R39's table. That the read of an unwritten MO or DI register marks the state faulted and goes
on, and that the mark is clear at reset, are the model's (log 3). -/
def Obligations.ResetRegisters : Prop :=
  State.reset.lifeState = .unpowered ∧ State.reset.busy = false ∧ State.reset.protoFault = false
    ∧ State.reset.result = .none ∧ State.reset.result.code = 7#3 ∧ State.reset.warn = 0#4 ∧ State.reset.recIdx = 0#16
    ∧ readReg State.reset .cfgNrec = 0#16 ++ Config.nRec
    ∧ readReg State.reset .cfgLink =
      0#16 ++ Config.pixelFormatCode ++ 0#5 ++ BitVec.ofNat 3 (laneNumber Config.lanes)
    ∧ (∀ r : BankReg, (State.reset.bank.get r).written = false)
    ∧ (∀ n, 0x10 ≤ n ∧ n ≤ 0x1F → ∃ t, hostAccess (.read n) State.reset = .next t ∧ t.Faulted)
    ∧ ¬ State.reset.Faulted
    ∧ State.reset.railReq = .unknown ∧ State.reset.resetN = .unknown ∧ State.reset.curOp = none
    ∧ State.reset.upc = 0 ∧ State.reset.ri = 0 ∧ State.reset.t0 = 0 ∧ State.reset.pend = .ok ∧ State.reset.live = true

/-- The invariants stated below hold right after reset. -/
def Obligations.InvariantsAtReset : Prop :=
  State.reset.Configured ∧ State.reset.Sequenced ∧ State.reset.Clocked ∧ State.reset.Gated ∧ State.reset.Settled
    ∧ State.reset.Replayed ∧ State.reset.Paced

/-- The lookup returns the PanelConfig registered under the key, and nothing where none is, and after reset finds the instance's own
under COMPAT_KEY (R250, R253; the registry at reset is log 9, that reset follows an attach under COMPAT_KEY is log 14). Attach with an unknown key creates nothing and answers NotFound; with a known key it creates an instance with the
found PanelConfig and every register at its reset value. Neither emits an event, issues a request or drives the reset line. That the new
instance is not faulted includes the model's mark (log 3). -/
def Obligations.Attach : Prop :=
  (∀ (registry : List (CompatKey × PanelConfig)) (key : CompatKey) (c : PanelConfig),
    (key, c) ∈ registry → (∀ d, (key, d) ∈ registry → d = c) → lookup registry key = some c)
  ∧ (∀ (registry : List (CompatKey × PanelConfig)) (key : CompatKey),
    lookup registry key = none ↔ ∀ c, (key, c) ∉ registry)
  ∧ lookup State.reset.registry Config.compatKey = some State.reset.cfg
  ∧
  (∀ (s : State) (key : CompatKey), s.live = false → lookup s.registry key = none →
    ∃ t, hostAccess (.attach key) s = .next t ∧ t.live = false ∧ t.attachResult.code = 5#3 ∧ t.trace = s.trace
      ∧ t.railReq = s.railReq ∧ t.resetN = s.resetN ∧ t.phase = s.phase)
  ∧ (∀ (s : State) (key : CompatKey) (c : PanelConfig), s.live = false → lookup s.registry key = some c →
    ∃ t, hostAccess (.attach key) s = .next t ∧ t.live = true ∧ t.cfg = c ∧ t.lifeState = .unpowered ∧ t.busy = false
      ∧ ¬ t.Faulted ∧ t.result = .none ∧ t.warn = 0#4 ∧ t.recIdx = 0#16
      ∧ (∀ r, (t.bank.get r).written = false) ∧ t.railReq = .unknown ∧ t.resetN = .unknown ∧ t.curOp = none
      ∧ t.upc = 0 ∧ t.ri = 0 ∧ t.t0 = 0 ∧ t.pend = .ok ∧ t.requesting = false ∧ (∀ e ∈ t.trace, e ∈ s.trace))

/-- What a detach does (R252; the order of its steps is log 13). In the step that asks for it: while BUSY it waits; in Unpowered the
instance ends with no event and no request; else UNPREPARE's program is entered. In the step that ends the operation it has waited
for: in Unpowered the instance ends, else UNPREPARE's program is entered; after UNPREPARE itself the instance ends. -/
def Obligations.DetachBegins : Prop :=
  (∀ s : State, s.nextInput.host = some .detach → s.live = true → s.detaching = false →
    ∃ t, step s = .next t ∧ t.trace = s.trace ∧ t.lifeState = s.lifeState ∧ t.railReq = s.railReq ∧ t.resetN = s.resetN
      ∧ (s.busy = true → t.live = true ∧ t.detaching = true ∧ t.busy = true ∧ t.curOp = s.curOp ∧ t.upc = s.upc
        ∧ t.phase = s.phase)
      ∧ (s.busy = false → s.lifeState = .unpowered → t.live = false ∧ t.busy = false)
      ∧ (s.busy = false → s.lifeState ≠ .unpowered → t.live = true ∧ t.detaching = true ∧ t.busy = true
        ∧ t.curOp = some .unprepare ∧ t.upc = 0 ∧ t.pend = .ok))
  ∧ (∀ (s t : State) (r : ResultCode), s.Sequenced → s.detaching = true → s.busy = true → step s = .next t →
    s.EndsWith t r →
      t.result = r ∧ t.lifeState = s.lifeState
        ∧ (s.lifeState = .unpowered → t.live = false ∧ t.busy = false ∧ t.detaching = false)
        ∧ (s.lifeState ≠ .unpowered → t.live = true ∧ t.detaching = true ∧ t.busy = true
          ∧ t.curOp = some .unprepare ∧ t.upc = 0 ∧ t.pend = .ok ∧ t.phase = .fresh)
        ∧ (s.curOp = some .unprepare → t.live = false))

/-- An instance ends only by a detach, idle, in Unpowered (R252). -/
def Obligations.InstanceEndsUnpowered : Prop :=
  ∀ s t : State, s.Sequenced → s.live = true → step s = .next t → t.live = false →
    t.lifeState = .unpowered ∧ t.busy = false ∧ t.detaching = false
      ∧ (s.detaching = true ∨ s.nextInput.host = some .detach)

/-! ## The host port -/

/-- What a host read of each register below 0x10 returns, field by field, and that it changes nothing else (R22, R23, R24,
R199). The returned value stands in readData (log 12). -/
def Obligations.StatusReads : Prop :=
  ∀ s : State, s.live = true →
    hostAccess (.read 0x00) s = .next { s with readData := some (0x00, 0#32) }
    ∧ (∃ v : HostWord, hostAccess (.read 0x01) s = .next { s with readData := some (0x01, v) }
        ∧ v.extractLsb' 0 3 = s.lifeState.code ∧ v.getLsbD 3 = s.busy ∧ v.getLsbD 4 = s.protoFault ∧ v.extractLsb' 5 27 = 0)
    ∧ (∃ v : HostWord, hostAccess (.read 0x02) s = .next { s with readData := some (0x02, v) }
        ∧ v.extractLsb' 0 3 = s.result.code ∧ v.extractLsb' 3 29 = 0)
    ∧ (∃ v : HostWord, hostAccess (.read 0x03) s = .next { s with readData := some (0x03, v) }
        ∧ v.extractLsb' 0 4 = s.warn ∧ v.extractLsb' 4 28 = 0)
    ∧ (∃ v : HostWord, hostAccess (.read 0x04) s = .next { s with readData := some (0x04, v) }
        ∧ v.extractLsb' 0 16 = s.recIdx ∧ v.extractLsb' 16 16 = 0)
    ∧ (∃ v : HostWord, hostAccess (.read 0x05) s = .next { s with readData := some (0x05, v) }
        ∧ v.extractLsb' 0 16 = s.cfg.nRec ∧ v.extractLsb' 16 16 = 0)
    ∧ (∃ v : HostWord, hostAccess (.read 0x06) s = .next { s with readData := some (0x06, v) }
        ∧ (v.extractLsb' 0 3).toNat = laneNumber s.cfg.lanes ∧ v.extractLsb' 3 5 = 0
        ∧ v.extractLsb' 8 8 = s.cfg.pixelFormatCode ∧ v.extractLsb' 16 16 = 0)

/-- The MO and DI registers (R23, R35, R38): a host write stores all 32 bits and changes nothing but the bank; a read then
gives the value, and every other register reads as before. Which number is which register: what a write of each number stores,
and what a read of each number returns after a successful GET_MODES (R195). -/
def Obligations.BankWriteRead : Prop :=
  (∀ (s : State) (n : Nat) (v : HostWord), s.live = true → 0x10 ≤ n → n ≤ 0x1F →
    ∃ b, hostAccess (.write n v) s = .next { s with bank := b }
      ∧ hostAccess (.read n) { s with bank := b } = .next { s with bank := b, readData := some (n, v) }
      ∧ ∀ (m : Nat) (t : State), m ≠ n → hostAccess (.read m) s = .next t →
        hostAccess (.read m) { s with bank := b } = .next { t with bank := b })
  ∧ (∀ (s : State) (v : HostWord), s.live = true → ∀ p ∈
    [(0x10, { s.bank with moClock := ⟨v, true⟩ }), (0x11, { s.bank with moHdisplay := ⟨v, true⟩ }),
     (0x12, { s.bank with moHfp := ⟨v, true⟩ }), (0x13, { s.bank with moHsync := ⟨v, true⟩ }),
     (0x14, { s.bank with moHbp := ⟨v, true⟩ }), (0x15, { s.bank with moHtotal := ⟨v, true⟩ }),
     (0x16, { s.bank with moVdisplay := ⟨v, true⟩ }), (0x17, { s.bank with moVfp := ⟨v, true⟩ }),
     (0x18, { s.bank with moVsync := ⟨v, true⟩ }), (0x19, { s.bank with moVbp := ⟨v, true⟩ }),
     (0x1A, { s.bank with moVtotal := ⟨v, true⟩ }), (0x1B, { s.bank with moWidthMm := ⟨v, true⟩ }),
     (0x1C, { s.bank with moHeightMm := ⟨v, true⟩ }), (0x1D, { s.bank with moType := ⟨v, true⟩ }),
     (0x1E, { s.bank with diWidthMm := ⟨v, true⟩ }), (0x1F, { s.bank with diHeightMm := ⟨v, true⟩ })],
    hostAccess (.write p.1 v) s = .next { s with bank := p.2 })
  ∧ (∀ s : State, s.live = true → s.busy = false → s.draw.alloc = .ok →
    ∃ t, exec .getModes s = .next t ∧ ∀ p ∈
      [(0x10, 275000000#32), (0x11, 1600#32), (0x12, BitVec.ofNat 32 s.cfg.horizontal.front),
       (0x13, BitVec.ofNat 32 s.cfg.horizontal.sync), (0x14, BitVec.ofNat 32 s.cfg.horizontal.back), (0x15, 1700#32),
       (0x16, 2560#32), (0x17, BitVec.ofNat 32 s.cfg.vertical.front), (0x18, BitVec.ofNat 32 s.cfg.vertical.sync),
       (0x19, BitVec.ofNat 32 s.cfg.vertical.back), (0x1A, 2694#32), (0x1B, 266#32), (0x1C, 166#32), (0x1D, 0b11#32),
       (0x1E, 266#32), (0x1F, 166#32)],
      hostAccess (.read p.1) t = .next { t with readData := some p })

/-- A read of an MO or DI register returns what it holds and marks the state faulted exactly while the register is unwritten (R23;
that the fault is a mark and the machine goes on is log 3). The mark stays while the instance lives, nothing else sets it, a
marked state is never final, and a register once written is not unwritten again. -/
def Obligations.UnwrittenReadFaults : Prop :=
  (∀ (s : State) (n : Nat), s.live = true → 0x10 ≤ n → n ≤ 0x1F →
    ∃ r, HostReg.ofNum n = some (.bank r) ∧ hostAccess (.read n) s = .next { s with
      readFault := if (s.bank.get r).written = true then s.readFault else true
      readData := some (n, (s.bank.get r).value) })
  ∧ (∀ s t : State, step s = .next t → s.live = true → s.readFault = true → t.readFault = true)
  ∧ (∀ s t : State, step s = .next t → t.readFault = true → s.readFault = true
    ∨ ∃ n r, s.nextInput.host = some (.read n) ∧ HostReg.ofNum n = some (.bank r) ∧ (s.bank.get r).written = false)
  ∧ (∀ s : State, s.readFault = true → ¬ s.Final)
  ∧ (∀ (s t : State) (r : BankReg), step s = .next t → s.live = true → (s.bank.get r).written = true →
    (t.bank.get r).written = true)

/-- R223: each violation sets PROTO_FAULT and has no other effect (an unmapped read returns 0, R38); with no instance nothing
happens; the bit is never cleared while the instance lives, and a faulted state is never final. -/
def Obligations.ProtocolViolations : Prop :=
  (∀ (s : State) (n : Nat), s.live = true → s.Violates (.read n) →
    hostAccess (.read n) s = .next { s with protoFault := true, readData := some (n, 0#32) })
  ∧ (∀ (s : State) (n : Nat) (v : HostWord), s.live = true → s.Violates (.write n v) →
    hostAccess (.write n v) s = .next { s with protoFault := true })
  ∧ (∀ (s : State) (n : Nat) (v : HostWord), s.live = false →
    hostAccess (.read n) s = .next s ∧ hostAccess (.write n v) s = .next s)
  ∧ (∀ s t : State, step s = .next t → s.live = true → s.protoFault = true → t.protoFault = true)
  ∧ (∀ s : State, s.protoFault = true → ¬ s.Final)

/-- PROTO_FAULT is set by nothing but a host protocol violation (R28, R223). -/
def Obligations.OnlyViolationsFault : Prop :=
  ∀ s t : State, step s = .next t → t.protoFault = true →
    s.protoFault = true ∨ ∃ a, s.nextInput.host = some a ∧ s.Violates a

/-! ## Acceptance of a host command -/

/-- A host instruction issued while BUSY neither starts nor queues anything: PROTO_FAULT is set, the operation in flight goes on
(R110, R113, R223 a). -/
def Obligations.CommandWhileBusy : Prop :=
  ∀ (i : Instr) (s : State), i.isHost = true → s.live = true → s.busy = true →
    exec i s = .next { s with protoFault := true }

/-- R111: the preconditions; that a command whose precondition fails writes RESULT, emits ACCEPT and DONE (R110), and has no
other effect; and that STATE is never Configured at an acceptance. -/
def Obligations.StateErrorRefusal : Prop :=
  (∀ (op : HostOp) (st : LifeState), precondition op st = true ↔
    match op with
    | .prepare => st = .unpowered
    | .enable => st = .resetting
    | .disable => st = .active
    | .unprepare | .getModes => True)
  ∧ (∀ (op : HostOp) (s : State), s.live = true → s.busy = false → precondition op s.lifeState = false →
    exec op.instr s = .next { s with
      result := .stateError
      trace := ⟨.done op .stateError, s.now, s.now⟩ :: ⟨.accept op, s.now, s.now⟩ :: s.trace })
  ∧ (∀ s : State, s.Sequenced → s.live = true → s.busy = false → s.lifeState ≠ .configured)

/-- The start of PREPARE, ENABLE, DISABLE and UNPREPARE (R110, R112, R115, R120, R125, R130): WARN is cleared and the
micro-program is entered at UPC 0. The fields phase and lastDone are the model's (log 5, log 6). -/
def Obligations.OperationStarts : Prop :=
  ∀ (op : HostOp) (s : State), s.live = true → s.busy = false →
    (op = .prepare ∧ s.lifeState = .unpowered) ∨ (op = .enable ∧ s.lifeState = .resetting)
      ∨ (op = .disable ∧ s.lifeState = .active) ∨ (op = .unprepare ∧ s.lifeState ≠ .unpowered) →
    exec op.instr s = .next { s with
      warn := 0#4
      curOp := some op
      upc := 0
      pend := .ok
      busy := true
      phase := .fresh
      lastDone := s.now
      trace := ⟨.accept op, s.now, s.now⟩ :: s.trace }

/-- UNPREPARE in Unpowered, for both values of the parameter (R131; which value holds is open, log 9). -/
def Obligations.UnprepareInUnpowered : Prop :=
  ∀ s : State, s.live = true → s.busy = false → s.lifeState = .unpowered →
    (s.cfg.unprepareWhenUnpowered = .noop → exec .unprepare s = .next { s with
      warn := 0#4
      result := .ok
      trace := ⟨.done .unprepare .ok, s.now, s.now⟩ :: ⟨.accept .unprepare, s.now, s.now⟩ :: s.trace })
    ∧ (s.cfg.unprepareWhenUnpowered = .reissue → exec .unprepare s = .next { s with
      warn := 0#4
      curOp := some .unprepare
      upc := 0
      pend := .ok
      busy := true
      phase := .fresh
      lastDone := s.now
      trace := ⟨.accept .unprepare, s.now, s.now⟩ :: s.trace })

/-- R195: GET_MODES' encoding, and its effect in any state with either answer of the allocation draw. -/
def Obligations.GetModes : Prop :=
  decodeHost 0x00000004#32 = .ok .getModes ∧ ∀ s : State, s.live = true → s.busy = false →
    (s.draw.alloc = .ok → exec .getModes s = .next { s with
      bank := {
        moClock := ⟨275000000#32, true⟩
        moHdisplay := ⟨1600#32, true⟩
        moHfp := ⟨BitVec.ofNat 32 s.cfg.horizontal.front, true⟩
        moHsync := ⟨BitVec.ofNat 32 s.cfg.horizontal.sync, true⟩
        moHbp := ⟨BitVec.ofNat 32 s.cfg.horizontal.back, true⟩
        moHtotal := ⟨1700#32, true⟩
        moVdisplay := ⟨2560#32, true⟩
        moVfp := ⟨BitVec.ofNat 32 s.cfg.vertical.front, true⟩
        moVsync := ⟨BitVec.ofNat 32 s.cfg.vertical.sync, true⟩
        moVbp := ⟨BitVec.ofNat 32 s.cfg.vertical.back, true⟩
        moVtotal := ⟨2694#32, true⟩
        moWidthMm := ⟨266#32, true⟩
        moHeightMm := ⟨166#32, true⟩
        moType := ⟨0b11#32, true⟩
        diWidthMm := ⟨266#32, true⟩
        diHeightMm := ⟨166#32, true⟩ }
      result := .ok
      trace := ⟨.done .getModes .ok, s.now, s.now⟩ :: ⟨.accept .getModes, s.now, s.now⟩ :: s.trace })
    ∧ (s.draw.alloc = .err → exec .getModes s = .next { s with
      result := .allocationError
      trace := ⟨.done .getModes .allocationError, s.now, s.now⟩ :: ⟨.accept .getModes, s.now, s.now⟩ :: s.trace })

/-- The totals of the delivered mode (R192): each total register is the sum of its active, porch and sync registers. -/
def Obligations.ModeTotals : Prop :=
  ∀ s : State, s.Configured → s.live = true → s.busy = false → s.draw.alloc = .ok →
    ∃ t hd hf hs hb ht vd vf vs vb vt, exec .getModes s = .next t
      ∧ t.bank.moHdisplay = ⟨hd, true⟩ ∧ t.bank.moHfp = ⟨hf, true⟩ ∧ t.bank.moHsync = ⟨hs, true⟩ ∧ t.bank.moHbp = ⟨hb, true⟩
      ∧ t.bank.moHtotal = ⟨ht, true⟩ ∧ ht.toNat = hd.toNat + hf.toNat + hs.toNat + hb.toNat
      ∧ hf.toNat + hs.toNat + hb.toNat = 100
      ∧ t.bank.moVdisplay = ⟨vd, true⟩ ∧ t.bank.moVfp = ⟨vf, true⟩ ∧ t.bank.moVsync = ⟨vs, true⟩ ∧ t.bank.moVbp = ⟨vb, true⟩
      ∧ t.bank.moVtotal = ⟨vt, true⟩ ∧ vt.toNat = vd.toNat + vf.toNat + vs.toNat + vb.toNat
      ∧ vf.toNat + vs.toNat + vb.toNat = 134

/-- R198: two successful GET_MODES of instances with one configuration write the same values, and a host write to the MO or DI
registers does not change what the next one writes. -/
def Obligations.GetModesRepeats : Prop :=
  (∀ s u s' u' : State, s.live = true → u.live = true → s.busy = false → u.busy = false → s.draw.alloc = .ok →
    u.draw.alloc = .ok → s.cfg = u.cfg → exec .getModes s = .next s' → exec .getModes u = .next u' → s'.bank = u'.bank)
  ∧ (∀ (s t s' t' : State) (n : Nat) (v : HostWord), s.live = true → s.busy = false → s.draw.alloc = .ok →
    0x10 ≤ n → n ≤ 0x1F → hostAccess (.write n v) s = .next t → exec .getModes s = .next s' →
    exec .getModes t = .next t' → s'.bank = t'.bank)

/-- The frame of PREPARE, ENABLE, DISABLE, UNPREPARE and GET_MODES, whatever they answer (R110, R111, R131, R195): no hardware
register, no ROM and no byte of the command table changes; RESULT, the bank, WARN and the sequencer's registers change only as
their rules say. -/
def Obligations.HostInstrFrame : Prop :=
  ∀ (i : Instr) (s t : State), i.isHost = true → exec i s = .next t →
    t.cfg = s.cfg ∧ t.urom = s.urom ∧ t.live = s.live ∧ t.lifeState = s.lifeState ∧ t.recIdx = s.recIdx
    ∧ t.railReq = s.railReq ∧ t.resetN = s.resetN ∧ t.t0 = s.t0 ∧ t.ri = s.ri ∧ t.detaching = s.detaching
    ∧ t.attachResult = s.attachResult ∧ t.readData = s.readData ∧ t.now = s.now ∧ t.draw = s.draw
    ∧ t.inputs = s.inputs ∧ t.tick = s.tick ∧ t.registry = s.registry ∧ t.readFault = s.readFault
    ∧ (∀ a, Memory.read t.cfg.table a = Memory.read s.cfg.table a)
    ∧ (i ≠ .getModes → t.bank = s.bank)
    ∧ (s.busy = false → t.protoFault = s.protoFault)
    ∧ (s.busy = true → t.busy = true ∧ t.result = s.result ∧ t.warn = s.warn ∧ t.bank = s.bank ∧ t.trace = s.trace)
    ∧ (t.busy = s.busy → t.curOp = s.curOp ∧ t.upc = s.upc ∧ t.pend = s.pend ∧ t.phase = s.phase
      ∧ t.lastDone = s.lastDone)
    ∧ (t.busy ≠ s.busy → t.result = s.result)
    ∧ (i = .getModes → t.warn = s.warn ∧ t.busy = s.busy)

/-! ## The micro-ops -/

/-- R152: RAIL's encoding; RAIL_REQ at issue, whatever comes; and its answers. `ts` is when the request was issued. -/
def Obligations.RailMicroOp : Prop :=
  ∀ (s : State) (fatal en : Bool) (op : HostOp) (ts : Nat), s.curOp = some op → s.IssuedAt ts →
    decodeUop (0x1#4 ++ 0#10 ++ BitVec.ofBool fatal ++ BitVec.ofBool en) = .ok (.rail fatal en)
    ∧ ∃ t, exec (.rail fatal en) s = .next t
      ∧ t.railReq = (if s.requesting = true then s.railReq else if en = true then .on else .off)
      ∧ (s.draw.resp = none → s.requesting = false → t.phase = .awaiting (.setRail en) s.now ∧ t.trace = s.trace
        ∧ t.upc = s.upc ∧ t.busy = s.busy ∧ t.pend = s.pend)
      ∧ (s.draw.resp = none → s.requesting = true → t = s)
      ∧ (s.draw.resp = some .ok → t.trace = ⟨.rail en .ok, ts, s.now⟩ :: s.trace ∧ t.upc = s.upc + 1
        ∧ t.pend = s.pend ∧ t.result = s.result ∧ t.busy = s.busy)
      ∧ (s.draw.resp = some .err → fatal = true →
        t.trace = ⟨.done op .powerError, s.now, s.now⟩ :: ⟨.rail en .err, ts, s.now⟩ :: s.trace ∧ t.upc = s.upc
          ∧ t.pend = s.pend ∧ t.result = .powerError ∧ t.busy = false)
      ∧ (s.draw.resp = some .err → fatal = false →
        t.trace = ⟨.rail en .err, ts, s.now⟩ :: s.trace ∧ t.upc = s.upc + 1
          ∧ t.pend = .powerError ∧ t.result = s.result ∧ t.busy = s.busy)

/-- R154: RST's encoding and effect. -/
def Obligations.RstMicroOp : Prop :=
  ∀ (s : State) (level : Level),
    decodeUop (0x2#4 ++ 0#11 ++ BitVec.ofBool level.bit) = .ok (.rst level)
    ∧ ∃ t, exec (.rst level) s = .next t ∧ t.resetN = .driven level
      ∧ t.trace = ⟨.rst level, s.now, s.now⟩ :: s.trace ∧ t.upc = s.upc + 1 ∧ t.busy = s.busy ∧ t.result = s.result

/-- WAIT (R156, R173): it begins with T0 at the completion of the previous micro-op, which the model holds in lastDone (log 6),
and completes exactly when `now >= T0 + 1000*MS`; until then nothing else changes. -/
def Obligations.WaitMicroOp : Prop :=
  ∀ (s : State) (ms : BitVec 12) (t0 : Nat), (s.phase = .begun → t0 = s.t0) → (s.phase ≠ .begun → t0 = s.lastDone) →
    decodeUop (0x3#4 ++ ms) = .ok (.wait ms)
    ∧ (s.now < t0 + 1000 * ms.toNat → exec (.wait ms) s = .next { s with t0 := t0, phase := .begun })
    ∧ (t0 + 1000 * ms.toNat ≤ s.now → exec (.wait ms) s = .next { s with
        t0 := t0, upc := s.upc + 1, phase := .fresh, lastDone := s.now })

/-- REPLAY (R160): its beginning, a record's write with each answer, and its completion. That the beginning takes a step of its
own is the model's choice (log 5). -/
def Obligations.ReplayMicroOp : Prop :=
  ∀ (s : State) (op : HostOp) (ts : Nat), s.curOp = some op → s.IssuedAt ts →
    decodeUop 0x4000#16 = .ok .replay
    ∧ (s.phase = .fresh → exec .replay s = .next { s with recIdx := 0#16, ri := 0, phase := .begun })
    ∧ (s.phase ≠ .fresh → s.ri < s.cfg.nRec.toNat →
      ∃ b0 b1 t, memRead s.cfg (2 * s.ri) = some b0 ∧ memRead s.cfg (2 * s.ri + 1) = some b1
        ∧ exec .replay s = .next t ∧ t.upc = s.upc ∧ t.lifeState = s.lifeState
        ∧ (s.draw.resp = none → s.requesting = false →
          t = { s with phase := .awaiting (.write s.ri b0 b1) s.now })
        ∧ (s.draw.resp = none → s.requesting = true → t = s)
        ∧ (s.draw.resp = some .ok → t.trace = ⟨.write s.ri b0 b1 .ok, ts, s.now⟩ :: s.trace
          ∧ t.ri = s.ri + 1 ∧ t.recIdx.toNat = s.ri + 1 ∧ t.busy = s.busy ∧ t.result = s.result)
        ∧ (s.draw.resp = some .err →
          t.trace = ⟨.done op .transportError, s.now, s.now⟩ :: ⟨.write s.ri b0 b1 .err, ts, s.now⟩ :: s.trace
            ∧ t.ri = s.ri ∧ t.recIdx = s.recIdx ∧ t.busy = false ∧ t.result = .transportError))
    ∧ (s.phase ≠ .fresh → s.cfg.nRec.toNat ≤ s.ri →
      exec .replay s = .next { s with upc := s.upc + 1, phase := .fresh, lastDone := s.now })

/-- R163: the encoding and the effect of the four DCS micro-ops, by their request kind and selector. -/
def Obligations.DcsMicroOps : Prop :=
  ∀ (s : State) (widx : BitVec 2) (ts : Nat), s.IssuedAt ts →
    ∀ p ∈ [(Instr.dcsEnterSleep widx, DcsCmd.enterSleep, 0x10#8), (Instr.dcsExitSleep widx, DcsCmd.exitSleep, 0x11#8),
      (Instr.dcsDisplayOff widx, DcsCmd.setDisplayOff, 0x28#8), (Instr.dcsDisplayOn widx, DcsCmd.setDisplayOn, 0x29#8)],
      p.2.1.sel = p.2.2 ∧ decodeUop (0x5#4 ++ 0#2 ++ widx ++ p.2.2) = .ok p.1
      ∧ ∃ t, exec p.1 s = .next t ∧ t.busy = s.busy ∧ t.result = s.result ∧ t.lifeState = s.lifeState
        ∧ (s.draw.resp = none → s.requesting = false → t = { s with phase := .awaiting (.dcs p.2.1) s.now })
        ∧ (s.draw.resp = none → s.requesting = true → t = s)
        ∧ (s.draw.resp = some .ok → t.trace = ⟨.dcs p.2.1 .ok, ts, s.now⟩ :: s.trace ∧ t.upc = s.upc + 1
          ∧ t.warn = s.warn)
        ∧ (s.draw.resp = some .err → t.trace = ⟨.dcs p.2.1 .err, ts, s.now⟩ :: s.trace ∧ t.upc = s.upc + 1
          ∧ ∀ k, t.warn.getLsbD k = (decide (k = widx.toNat) || s.warn.getLsbD k))

/-- R170: SETST's encoding and effect for the codes 0 to 4, that the codes 5 to 7 are illegal, and that no other instruction
changes STATE. -/
def Obligations.SetstMicroOp : Prop :=
  (∀ (s : State) (c : BitVec 3), c.toNat ≤ 4 →
    decodeUop (0x6#4 ++ 0#9 ++ c) = .ok (.setst c)
    ∧ ∃ t, exec (.setst c) s = .next t ∧ t.lifeState.code = c
      ∧ t.trace = ⟨.state t.lifeState, s.now, s.now⟩ :: s.trace ∧ t.upc = s.upc + 1 ∧ t.busy = s.busy
      ∧ t.result = s.result)
  ∧ (∀ c : BitVec 3, 5 ≤ c.toNat → ∃ e, decodeUop (0x6#4 ++ 0#9 ++ c) = .error e)
  ∧ (∀ (i : Instr) (s t : State), exec i s = .next t → t.lifeState ≠ s.lifeState → ∃ c, i = .setst c)

/-- exec of an ill-formed SETST, which no word decodes to, faults. That it does is the model's choice (log 18): R91 refuses the
word, and R25 speaks of a STATE that holds 5, 6 or 7. -/
def Obligations.IllegalStateFaults : Prop :=
  ∀ (s : State) (c : BitVec 3), 5 ≤ c.toNat → exec (.setst c) s = .fault (.illegalStateCode c)

/-- R172: END's encoding and effect, and that PEND is PowerError only after a non-fatal RAIL failure. -/
def Obligations.EndMicroOp : Prop :=
  decodeUop 0x0000#16 = .ok .endProgram
  ∧ (∀ (s : State) (op : HostOp), s.curOp = some op →
    ∃ t, exec .endProgram s = .next t ∧ t.busy = false
      ∧ (s.pend = .ok → t.result = .ok ∧ t.trace = ⟨.done op .ok, s.now, s.now⟩ :: s.trace)
      ∧ (s.pend = .powerError → t.result = .powerError ∧ t.trace = ⟨.done op .powerError, s.now, s.now⟩ :: s.trace))
  ∧ (∀ (i : Instr) (s t : State), exec i s = .next t → s.pend = .ok → t.pend = .powerError →
    s.draw.resp = some .err ∧ ∃ en, i = .rail false en)

/-- R171: every error that a micro-op raises ends the operation at once; UPC, STATE, REC_IDX, WARN and PEND keep their
values, and the failing record's index is RI. -/
def Obligations.RaiseEndsOperation : Prop :=
  ∀ (i : Instr) (s t : State) (op : HostOp), i.isHost = false → i ≠ .endProgram → s.curOp = some op → s.busy = true →
    exec i s = .next t → t.busy = false →
    ∃ e e1, t.result = e ∧ t.trace = ⟨.done op e, s.now, s.now⟩ :: e1 :: s.trace
      ∧ ((e = .powerError ∧ ∃ en, i = .rail true en ∧ e1.kind = .rail en .err)
        ∨ (e = .transportError ∧ i = .replay ∧ ∃ b0 b1, e1.kind = .write s.ri b0 b1 .err))
      ∧ t.upc = s.upc ∧ t.lifeState = s.lifeState ∧ t.recIdx = s.recIdx ∧ t.warn = s.warn ∧ t.pend = s.pend

/-- The frame of the ten micro-ops, what none of them changes (R32 to R37, R52, R58): the ROMs and every byte of the command
table, the MO and DI registers, PROTO_FAULT, CUR_OP, the instance and the environment. -/
def Obligations.MicroOpFrame : Prop :=
  ∀ (i : Instr) (s t : State), i.isHost = false → exec i s = .next t →
    t.cfg = s.cfg ∧ t.urom = s.urom ∧ t.live = s.live ∧ t.protoFault = s.protoFault ∧ t.bank = s.bank
    ∧ t.curOp = s.curOp ∧ t.detaching = s.detaching ∧ t.attachResult = s.attachResult ∧ t.readData = s.readData
    ∧ t.now = s.now ∧ t.draw = s.draw ∧ t.inputs = s.inputs ∧ t.tick = s.tick ∧ t.registry = s.registry
    ∧ t.readFault = s.readFault ∧ (∀ a, Memory.read t.cfg.table a = Memory.read s.cfg.table a)
    ∧ (∃ new, t.trace = new ++ s.trace)

/-- The frame of each micro-op by register: RESET_N is RST's, RAIL_REQ and PEND are RAIL's, STATE is SETST's, REC_IDX and RI are
REPLAY's, T0 is WAIT's, WARN is the DCS micro-ops' and only its bit WIDX, RESULT and BUSY are those of the ending micro-ops
(R25 to R34, R152 to R172). -/
def Obligations.MicroOpOwnRegisters : Prop :=
  ∀ (i : Instr) (s t : State), i.isHost = false → exec i s = .next t →
    ((∀ l, i ≠ .rst l) → t.resetN = s.resetN)
    ∧ ((∀ f en, i ≠ .rail f en) → t.railReq = s.railReq ∧ t.pend = s.pend)
    ∧ ((∀ en, i ≠ .rail false en) → t.pend = s.pend)
    ∧ ((∀ c, i ≠ .setst c) → t.lifeState = s.lifeState)
    ∧ (i ≠ .replay → t.recIdx = s.recIdx ∧ t.ri = s.ri)
    ∧ ((∀ ms, i ≠ .wait ms) → t.t0 = s.t0)
    ∧ ((∀ w, i ≠ .dcsEnterSleep w ∧ i ≠ .dcsExitSleep w ∧ i ≠ .dcsDisplayOff w ∧ i ≠ .dcsDisplayOn w) → t.warn = s.warn)
    ∧ (∀ w k, i = .dcsEnterSleep w ∨ i = .dcsExitSleep w ∨ i = .dcsDisplayOff w ∨ i = .dcsDisplayOn w → k ≠ w.toNat →
      t.warn.getLsbD k = s.warn.getLsbD k)
    ∧ (i ≠ .endProgram → i ≠ .replay → (∀ en, i ≠ .rail true en) → t.result = s.result ∧ t.busy = s.busy)
    ∧ (t.upc ≠ s.upc → t.upc = s.upc + 1 ∧ t.phase = .fresh ∧ t.lastDone = s.now)
    ∧ (t.upc = s.upc → t.lastDone = s.lastDone)

/-! ## The step -/

/-- A step runs the decoded instruction: a host word written to CMD, or the micro-op at UPC, in the state to which the step's
input has come (log 4), followed by what a waiting detach does (R150, R252, log 13). In the host's turn it is the host's access,
whatever that is: a read or a write of a register, an attach or a detach (R22, R250, R252). -/
def Obligations.StepRunsDecoded : Prop :=
  (∀ (s : State) (v : HostWord) (i : Instr), s.nextInput.host = some (.write 0x00 v) → s.live = true →
    decodeHost v = .ok i →
    step s = match exec i s.arrive with
      | .next t => .next t.settleDetach
      | .fault r => .fault r
      | .refused r => .refused r)
  ∧ (∀ (s : State) (w : UopWord) (i : Instr), s.nextInput.host = none → s.live = true → s.busy = true →
    s.fetch = some w → decodeUop w = .ok i →
    step s = match exec i s.arrive with
      | .next t => .next t.settleDetach
      | .fault r => .fault r
      | .refused r => .refused r)
  ∧ (∀ (s : State) (a : HostAccess), s.nextInput.host = some a →
    step s = match hostAccess a s.arrive with
      | .next t => .next t.settleDetach
      | .fault r => .fault r
      | .refused r => .refused r)

/-- Between operations the block is idle with all registers held; only the environment's fields move (R238, R234). -/
def Obligations.IdleHolds : Prop :=
  ∀ s : State, s.nextInput.host = none → (s.live = true → s.busy = false) →
    step s = .next { s with
      now := s.now + s.nextInput.dt
      draw := ⟨s.nextInput.resp, s.nextInput.alloc⟩
      inputs := s.inputs.tail
      tick := s.tick + 1 }

/-- A request without an answer waits (R233): the micro-op that has issued one changes nothing until the answer comes, no request
is issued again (R134), the state is not final, and the observed trace ends with the issued event that has not completed (R13). -/
def Obligations.UnansweredRequestHangs : Prop :=
  ∀ (s : State) (w : UopWord) (i : Instr), s.Awaiting → s.nextInput.host = none → s.nextInput.resp = none →
    s.fetch = some w → decodeUop w = .ok i →
    (∃ f en, i = .rail f en) ∨ (i = .replay ∧ s.ri < s.cfg.nRec.toNat)
      ∨ (∃ x, i = .dcsEnterSleep x ∨ i = .dcsExitSleep x ∨ i = .dcsDisplayOff x ∨ i = .dcsDisplayOn x) →
    ∃ t, step s = .next t
      ∧ t = { s with
        now := s.now + s.nextInput.dt
        draw := ⟨none, s.nextInput.alloc⟩
        inputs := s.inputs.tail
        tick := s.tick + 1 }
      ∧ ¬ t.Final ∧ t.observe = s.observe
      ∧ ∃ req ts, s.phase = .awaiting req ts
        ∧ t.observe.events = s.trace.reverse.map .completed ++ [.issued req ts]

/-- No step writes a ROM (R52, R58, R68): the micro-programs, the registry and, while the instance lives, the configuration with
every byte of the command table stay; time never runs backwards (R234). -/
def Obligations.RomsNeverWritten : Prop :=
  ∀ s t : State, step s = .next t →
    t.urom = s.urom ∧ t.registry = s.registry ∧ s.now ≤ t.now
    ∧ (s.live = true → t.cfg = s.cfg ∧ ∀ a, memRead t.cfg a = memRead s.cfg a)

/-- STATE changes only when the sequencer runs a SETST (R25, R170, R227): no host access changes it. -/
def Obligations.StateOnlyBySetst : Prop :=
  ∀ s t : State, s.live = true → step s = .next t → t.lifeState ≠ s.lifeState →
    s.nextInput.host = none ∧ s.busy = true ∧ ∃ w c, s.fetch = some w ∧ decodeUop w = .ok (.setst c)
      ∧ t.lifeState.code = c

/-- BUSY rises only by an accepted host command or a forced UNPREPARE of a detach (R27, R113, R252). -/
def Obligations.BusyRises : Prop :=
  ∀ s t : State, s.Sequenced → step s = .next t → s.busy = false → t.busy = true →
    t.upc = 0 ∧ t.pend = .ok ∧
      ((∃ v op, s.nextInput.host = some (.write 0x00 v) ∧ decodeHost v = .ok op.instr ∧ t.curOp = some op
        ∧ precondition op s.lifeState = true ∧ t.warn = 0#4 ∧ t.trace = ⟨.accept op, t.now, t.now⟩ :: s.trace)
      ∨ (s.nextInput.host = some .detach ∧ t.curOp = some .unprepare ∧ t.detaching = true ∧ s.lifeState ≠ .unpowered))

/-- BUSY falls only in the step that writes RESULT and emits DONE (R27, R29, R171, R172). -/
def Obligations.BusyFalls : Prop :=
  ∀ s t : State, s.Sequenced → s.live = true → step s = .next t → s.busy = true → t.busy = false →
    ∃ op older, s.curOp = some op ∧ t.trace = ⟨.done op t.result, t.now, t.now⟩ :: older
      ∧ (older = s.trace ∨ ∃ e, older = e :: s.trace)

/-- With the fixed ROM the sequencer never stops: every step without a host access answers a next state (R90, R91, R51). -/
def Obligations.SequencerNeverStops : Prop :=
  ∀ s : State, s.Sequenced → s.nextInput.host = none → ∃ t, step s = .next t

/-- A machine with the fixed ROM never faults, and its only refusals are those of an attach to a live instance and of a second
detach (log 13, log 14). -/
def Obligations.OnlyStops : Prop :=
  ∀ s : State, s.Sequenced →
    (∀ r, step s ≠ .fault r)
    ∧ (∀ r, step s = .refused r →
      (r = .attachWhileLive ∧ s.live = true ∧ ∃ key, s.nextInput.host = some (.attach key))
      ∨ (r = .detachWhileDetaching ∧ s.detaching = true ∧ s.nextInput.host = some .detach))

/-! ## Invariants that every step keeps -/

/-- The configuration meets R7, R51 and R192: the command table keeps its canonical form inside its bounds, and the blanking
sums hold. -/
def Obligations.ConfiguredKept : Prop :=
  ∀ s t : State, s.Configured → step s = .next t → t.Configured

/-- With the fixed ROM, a running program stands where R90 puts it, with STATE, PEND, WARN, RAIL_REQ and RESET_N as the operation's
rule says at that place; at rest STATE is never Configured and outside Unpowered the panel is powered and released (R26, R238). -/
def Obligations.SequencedKept : Prop :=
  ∀ s t : State, s.Sequenced → step s = .next t → t.Sequenced

/-- The trace is totally ordered, whatever the ROM holds (R13, R62). -/
def Obligations.ClockedKept : Prop :=
  ∀ s t : State, s.Clocked → step s = .next t → t.Clocked

/-- Every gate between consecutive events is kept (R157, R260). -/
def Obligations.GatedKept : Prop :=
  ∀ s t : State, s.Sequenced → s.Clocked → s.Gated → step s = .next t → t.Gated

/-- Every transport event was issued at least 130 ms after the last RST(High) (R262). -/
def Obligations.SettledKept : Prop :=
  ∀ s t : State, s.Sequenced → s.Clocked → s.Settled → step s = .next t → t.Settled

/-- REC_IDX counts the records written, in table order, by the current replay, and never exceeds N_REC (R31, R63, R161). -/
def Obligations.ReplayedKept : Prop :=
  ∀ s t : State, s.Sequenced → s.Replayed → step s = .next t → t.Replayed

/-- No PREPARE or ENABLE takes less than its minimum, and no UNPREPARE whose program runs: from a powered state, or in Unpowered with
`reissue` (R266). The second clause says it of the step that ends such an UNPREPARE; a detach runs the program without an ACCEPT
(log 13). -/
def Obligations.PacedKept : Prop :=
  ∀ s t : State, s.Sequenced → s.Clocked → s.Paced → step s = .next t →
    t.Paced
    ∧ ∀ r, s.live = true → s.busy = true → s.curOp = some .unprepare → s.EndsWith t r →
      NoneAcceptedWithin s.trace .unprepare 120000 t.now
        ∧ (s.detaching = false → AcceptedBefore s.trace .unprepare 120000 t.now)

/-! ## Rules of the whole machine -/

/-- Traffic only on a powered, released panel (R262): a step that emits a WRITE or DCS event has RAIL_REQ On and RESET_N High,
before and after. -/
def Obligations.TrafficOnlyPowered : Prop :=
  ∀ s t : State, s.Sequenced → s.live = true → step s = .next t →
    ∃ new, t.trace = new ++ s.trace ∧ ∀ e ∈ new, e.kind.isTraffic = true →
      s.railReq = .on ∧ s.resetN = .driven .high ∧ t.railReq = .on ∧ t.resetN = .driven .high

/-- How every operation ends, whether a detach waits for it or not (R114, R116, R122, R123, R126, R132): STATE, RESULT, the WARN
bits that can be set, and the hardware requests left behind. The step that ends an operation leaves WARN and REC_IDX as they were
(R30, R31), so only the operation's own DCS and REPLAY micro-ops have changed them. With a detach waiting (R252), UNPREPARE's
program is entered in that same step, and that this does not clear WARN is the model's choice (log 13). -/
def Obligations.OperationOutcomes : Prop :=
  ∀ (s t : State) (r : ResultCode), s.Sequenced → s.Replayed → s.live = true → step s = .next t → s.busy = true →
    s.EndsWith t r → t.result = r ∧ (s.detaching = false → t.busy = false) ∧ t.warn = s.warn ∧ t.recIdx = s.recIdx ∧
    match s.curOp with
    | some .prepare =>
      t.warn = 0#4 ∧ t.railReq = .on
        ∧ ((t.lifeState = .resetting ∧ t.result = .ok ∧ t.resetN = .driven .high)
          ∨ (t.lifeState = .unpowered ∧ t.result = .powerError ∧ t.resetN = s.resetN))
    | some .enable =>
      t.warn &&& 0b1100#4 = 0#4 ∧ t.railReq = .on ∧ t.resetN = .driven .high
        ∧ ((t.lifeState = .active ∧ t.result = .ok ∧ t.recIdx = t.cfg.nRec)
          ∨ (t.lifeState = .resetting ∧ t.result = .transportError ∧ t.warn = 0#4 ∧ t.recIdx.toNat < t.cfg.nRec.toNat))
    | some .disable =>
      t.warn &&& 0b0011#4 = 0#4 ∧ t.railReq = .on ∧ t.resetN = .driven .high ∧ t.lifeState = .sleeping ∧ t.result = .ok
    | some .unprepare =>
      t.railReq = .off ∧ t.resetN = .driven .low ∧ t.lifeState = .unpowered
        ∧ (t.result = .ok ∨ t.result = .powerError)
    | some .getModes | none => False

/-- When the write of record k answers Err, ENABLE ends with TransportError, STATE Resetting and `REC_IDX = k`, and the
operation's events are its ACCEPT, the writes of records 0 to k, the last one answered Err, and its DONE (R122). With a detach waiting, UNPREPARE's program is entered
in that same step (R252): that its entry emits no ACCEPT after the DONE is the model's choice (log 13). -/
def Obligations.EnableAborts : Prop :=
  ∀ s : State, s.Sequenced → s.Replayed → s.Replaying → s.nextInput.host = none →
    s.nextInput.resp = some .err → s.recIdx.toNat < s.cfg.nRec.toNat →
    ∃ t older, step s = .next t ∧ t.result = .transportError ∧ t.lifeState = .resetting
      ∧ (s.detaching = false → t.busy = false)
      ∧ t.recIdx = s.recIdx
      ∧ t.trace.map (·.kind) =
        .done .enable .transportError
          :: .write s.recIdx.toNat (Memory.read s.cfg.table (2 * s.recIdx.toNat))
              (Memory.read s.cfg.table (2 * s.recIdx.toNat + 1)) .err
          :: (writesOk s.cfg s.recIdx.toNat ++ .accept .enable :: older)

/-- The replay is determined by the table (R65): when two running replays of one configuration have come to the same record and
both writes are answered Ok, both steps emit the WRITE of that record with the table's bytes, have then emitted the same writes in
the same order, and have come to the same next record; and past the last record both complete and emit nothing. -/
def Obligations.ReplayDeterministic : Prop :=
  ∀ s u : State, s.Sequenced → u.Sequenced → s.Replayed → u.Replayed → s.Replaying → u.Replaying → s.cfg = u.cfg →
    s.recIdx = u.recIdx → s.nextInput.host = none → u.nextInput.host = none → s.nextInput.resp = some .ok →
    u.nextInput.resp = some .ok →
    ∃ s' u', step s = .next s' ∧ step u = .next u' ∧ s'.recIdx = u'.recIdx ∧ s'.upc = u'.upc
      ∧ (s.recIdx.toNat < s.cfg.nRec.toNat →
        s'.recIdx.toNat = s.recIdx.toNat + 1
        ∧ (∃ b0 b1, tableRead s.cfg s.recIdx.toNat = some (b0, b1)
          ∧ s'.trace.map (·.kind) = .write s.recIdx.toNat b0 b1 .ok :: s.trace.map (·.kind)
          ∧ u'.trace.map (·.kind) = .write s.recIdx.toNat b0 b1 .ok :: u.trace.map (·.kind))
        ∧ (s'.trace.map (·.kind)).take (s.recIdx.toNat + 1) = (u'.trace.map (·.kind)).take (s.recIdx.toNat + 1))
      ∧ (s.cfg.nRec.toNat ≤ s.recIdx.toNat →
        s'.upc = 2 ∧ s'.trace = s.trace ∧ u'.trace = u.trace
        ∧ (s'.trace.map (·.kind)).take s.recIdx.toNat = (u'.trace.map (·.kind)).take s.recIdx.toNat)

/-- The link parameters steer nothing (R199): with other LANES and PIXEL_FORMAT a live instance takes the same step, unless the
host reads CFG_LINK. -/
def Obligations.LinkParametersUnread : Prop :=
  ∀ (s t : State) (lanes : LaneCount) (format : PixelFormat) (code : BitVec 8), s.live = true →
    s.nextInput.host ≠ some (.read 0x06) → step s = .next t →
    step { s with cfg := { s.cfg with lanes := lanes, pixelFormat := format, pixelFormatCode := code } } =
      .next { t with cfg := { t.cfg with lanes := lanes, pixelFormat := format, pixelFormatCode := code } }
end

