-- ==== Sys2Proof/Laws/Memory.lean ====
section
/-! SUPPORT. Laws of the command-table memory: laying bytes out keeps the canonical form and reads back, and the PanelConfig at
reset meets its own conditions. -/

namespace Sys2Proof

theorem Memory.read_ofBytes_below (bs : List Byte) (base a : Nat) (h : a < base) :
    Memory.read (Memory.ofBytes base bs) a = Memory.unlisted := by
  induction bs generalizing base with
  | nil => rfl
  | cons b bs ih =>
    unfold Memory.ofBytes
    split
    · exact ih (base + 1) (by omega)
    · rw [Memory.read, if_neg (by omega)]
      exact ih (base + 1) (by omega)

theorem Memory.ofBytes_above (bs : List Byte) (base k : Nat) (h : k < base) :
    (Memory.ofBytes base bs).all (fun c => decide (k < c.1)) = true := by
  induction bs generalizing base with
  | nil => rfl
  | cons b bs ih =>
    unfold Memory.ofBytes
    split
    · exact ih (base + 1) (by omega)
    · simp only [List.all_cons, Bool.and_eq_true, decide_eq_true_eq]
      exact ⟨h, ih (base + 1) (by omega)⟩

/-- Laying bytes out gives the canonical form. -/
theorem Memory.wf_ofBytes (bs : List Byte) (base : Nat) : Memory.wf (Memory.ofBytes base bs) = true := by
  induction bs generalizing base with
  | nil => rfl
  | cons b bs ih =>
    unfold Memory.ofBytes
    split
    · exact ih (base + 1)
    · rename_i hb
      simp only [Memory.wf, Bool.and_eq_true, decide_eq_true_eq]
      exact ⟨⟨hb, Memory.ofBytes_above bs (base + 1) base (by omega)⟩, ih (base + 1)⟩

theorem Memory.below_ofBytes (bs : List Byte) (base n : Nat) (h : base + bs.length ≤ n) :
    Memory.below n (Memory.ofBytes base bs) = true := by
  induction bs generalizing base with
  | nil => rfl
  | cons b bs ih =>
    simp only [List.length_cons] at h
    have hrest := ih (base + 1) (by omega)
    unfold Memory.ofBytes
    split
    · exact hrest
    · simp only [Memory.below, List.all_cons, Bool.and_eq_true, decide_eq_true_eq] at hrest ⊢
      exact ⟨by omega, hrest⟩

/-- Reading bytes back from where they were laid out. -/
theorem Memory.read_ofBytes (bs : List Byte) (base i : Nat) (h : i < bs.length) :
    Memory.read (Memory.ofBytes base bs) (base + i) = bs[i] := by
  induction bs generalizing base i with
  | nil => simp at h
  | cons b bs ih =>
    cases i with
    | zero =>
      unfold Memory.ofBytes
      split
      · rename_i hb
        simp [Memory.read_ofBytes_below bs (base + 1) base (by omega), hb]
      · simp [Memory.read]
    | succ j =>
      have hj : j < bs.length := by simpa using h
      have hstep := ih (base + 1) j hj
      rw [show base + 1 + j = base + (j + 1) by omega] at hstep
      unfold Memory.ofBytes
      split
      · simpa using hstep
      · rw [Memory.read, if_neg (by omega)]
        simpa using hstep

theorem Memory.wf_rom (f : Nat → Byte) (n : Nat) : Memory.wf (Memory.rom f n) = true :=
  Memory.wf_ofBytes _ 0

theorem Memory.below_rom (f : Nat → Byte) (n : Nat) : Memory.below n (Memory.rom f n) = true :=
  Memory.below_ofBytes _ 0 n (by simp)

theorem Memory.read_rom (f : Nat → Byte) (n a : Nat) (h : a < n) : Memory.read (Memory.rom f n) a = f a := by
  have := Memory.read_ofBytes ((List.range n).map f) 0 a (by simpa using h)
  simpa [Memory.rom] using this

theorem Memory.wf_ofRecords (rs : List (Byte × Byte)) : Memory.wf (Memory.ofRecords rs) = true :=
  Memory.wf_ofBytes _ 0

/-- Every split has the total it splits. -/
theorem Config.total_split (total a b : Nat) : (Config.split total a b).total = total := by
  have ha : a % (total + 1) ≤ total := Nat.lt_succ_iff.mp (Nat.mod_lt a (by omega))
  have hb : b % (total - a % (total + 1) + 1) ≤ total - a % (total + 1) :=
    Nat.lt_succ_iff.mp (Nat.mod_lt b (by omega))
  simp only [Config.split, Blanking.total]
  omega

/-- The PanelConfig at reset meets R7, R51 and R192, whatever the open parameters are. -/
theorem Config.panel_wf : Config.panel.wf = true := by
  simp [PanelConfig.wf, Config.panel, Memory.wf_rom, Memory.below_rom, Config.total_split]

end Sys2Proof
end

