-- ==== Sys2Proof/Laws/PerInstr.lean ====
section
/-! SUPPORT. For each instruction, that its word lies in its own row of spec/opcode_table.json: the word masked by the row's
`mask` is the row's `match`. -/

namespace Sys2Proof.Laws.TableRow

/-- A row of the table: its mask and its match, in the row's format. -/
inductive Row where
  | host (mask pattern : HostWord)
  | uop (mask pattern : UopWord)
  deriving DecidableEq, Repr

/-- The word lies in the row. -/
def Row.holds : Row → Code → Prop
  | .host mask pattern, .host w => w &&& mask = pattern
  | .uop mask pattern, .uop w => w &&& mask = pattern
  | .host _ _, .uop _ => False
  | .uop _ _, .host _ => False

/-- The rows as the table gives them. -/
def rowOf : Instr → Row
  | .prepare => .host 0xFFFFFFFF#32 0x00000000#32
  | .enable => .host 0xFFFFFFFF#32 0x00000001#32
  | .disable => .host 0xFFFFFFFF#32 0x00000002#32
  | .unprepare => .host 0xFFFFFFFF#32 0x00000003#32
  | .getModes => .host 0xFFFFFFFF#32 0x00000004#32
  | .endProgram => .uop 0xFFFF#16 0x0000#16
  | .rail _ _ => .uop 0xFFFC#16 0x1000#16
  | .rst _ => .uop 0xFFFE#16 0x2000#16
  | .wait _ => .uop 0xF000#16 0x3000#16
  | .replay => .uop 0xFFFF#16 0x4000#16
  | .dcsEnterSleep _ => .uop 0xFCFF#16 0x5010#16
  | .dcsExitSleep _ => .uop 0xFCFF#16 0x5011#16
  | .dcsDisplayOff _ => .uop 0xFCFF#16 0x5028#16
  | .dcsDisplayOn _ => .uop 0xFCFF#16 0x5029#16
  | .setst _ => .uop 0xFFF8#16 0x6000#16

/-- The word of `i` lies in `i`'s row. -/
def Statement (i : Instr) : Prop := (rowOf i).holds (encode i)

theorem prepare : Statement .prepare := by simp [Statement, Row.holds, rowOf, encode]
theorem enable : Statement .enable := by simp [Statement, Row.holds, rowOf, encode]
theorem disable : Statement .disable := by simp [Statement, Row.holds, rowOf, encode]
theorem unprepare : Statement .unprepare := by simp [Statement, Row.holds, rowOf, encode]
theorem getModes : Statement .getModes := by simp [Statement, Row.holds, rowOf, encode]
theorem endProgram : Statement .endProgram := by simp [Statement, Row.holds, rowOf, encode]

theorem rail (fatal en : Bool) : Statement (.rail fatal en) := by
  cases fatal <;> cases en <;> simp [Statement, Row.holds, rowOf, encode]

theorem rst (level : Level) : Statement (.rst level) := by
  cases level <;> simp [Statement, Row.holds, rowOf, encode, Level.bit]

theorem wait (ms : BitVec 12) : Statement (.wait ms) := by
  simp only [Statement, Row.holds, rowOf, encode]
  refine BitVec.eq_of_getLsbD_eq fun k hk => ?_
  simp only [BitVec.getLsbD_and, BitVec.getLsbD_append]
  interval_cases k <;> simp

theorem replay : Statement .replay := by simp [Statement, Row.holds, rowOf, encode]

theorem dcsEnterSleep (widx : BitVec 2) : Statement (.dcsEnterSleep widx) := by
  simp only [Statement, Row.holds, rowOf, encode, encodeDcs]; revert widx; decide

theorem dcsExitSleep (widx : BitVec 2) : Statement (.dcsExitSleep widx) := by
  simp only [Statement, Row.holds, rowOf, encode, encodeDcs]; revert widx; decide

theorem dcsDisplayOff (widx : BitVec 2) : Statement (.dcsDisplayOff widx) := by
  simp only [Statement, Row.holds, rowOf, encode, encodeDcs]; revert widx; decide

theorem dcsDisplayOn (widx : BitVec 2) : Statement (.dcsDisplayOn widx) := by
  simp only [Statement, Row.holds, rowOf, encode, encodeDcs]; revert widx; decide

theorem setst (c : BitVec 3) : Statement (.setst c) := by
  simp only [Statement, Row.holds, rowOf, encode]; revert c; decide

end Sys2Proof.Laws.TableRow
end

