-- ==== Sys2Proof/Tests/Slice0.lean ====
section
/-! SUPPORT. Tests: the encodings written out from R81 to R88, single steps from the vectors of 95_test_vectors.md, and for
each statement a state that meets its hypotheses. -/

namespace Sys2Proof.Tests

open Sys2Proof.Machine

/-! ## Small states -/

/-- The configuration of P1: two records (0xB0, 0x5A) and (0xB1, 0x00). -/
def config (u : UnprepareMode) : PanelConfig where
  nRec := 2#16
  table := [(0, 0xB0#8), (1, 0x5A#8), (2, 0xB1#8)]
  lanes := .four
  pixelFormat := .rgb888
  pixelFormatCode := 0x24#8
  horizontal := ⟨60, 20, 20⟩
  vertical := ⟨100, 4, 30⟩
  unprepareWhenUnpowered := u

/-- The reset state with that configuration, registered under the key "k". -/
def blank : State := { State.reset with cfg := config .noop, registry := [(['k'], config .noop)] }

/-- An idle, powered instance. -/
def idle (life : LifeState) : State :=
  { blank with lifeState := life, railReq := .on, resetN := .driven .high, now := 500000 }

/-- An instance that runs the micro-op of `op` at `upc`. -/
def running (op : HostOp) (upc : Nat) (life : LifeState) : State :=
  { idle life with busy := true, curOp := some op, upc := upc, lastDone := 500000 }

/-- The host's turn. -/
def hostTurn (a : HostAccess) : Input := ⟨0, some a, none, .ok⟩

/-- The sequencer's turn, `dt` microseconds later. -/
def seqTurn (dt : Nat) (r : Option Resp) : Input := ⟨dt, none, r, .ok⟩

/-- One step in which the environment's turn is `i`. -/
def turn (s : State) (i : Input) : Host.Outcome State Fault Refusal := step { s with inputs := [i] }

/-- The outcome is a next state with `p`. -/
def nextIs (o : Host.Outcome State Fault Refusal) (p : State → Bool) : Bool :=
  match o with
  | .next t => p t
  | .fault _ => false
  | .refused _ => false

def faultIs (o : Host.Outcome State Fault Refusal) (f : Fault) : Bool :=
  match o with
  | .next _ => false
  | .fault r => decide (r = f)
  | .refused _ => false

def refusedIs (o : Host.Outcome State Fault Refusal) (f : Refusal) : Bool :=
  match o with
  | .next _ => false
  | .fault _ => false
  | .refused r => decide (r = f)

/-! ## Well-formedness (R85, R91) -/

theorem test_setst_5_ill_formed : (Instr.setst 5#3).wellFormed = false := by decide
theorem test_setst_6_ill_formed : (Instr.setst 6#3).wellFormed = false := by decide
theorem test_setst_7_ill_formed : (Instr.setst 7#3).wellFormed = false := by decide
theorem test_setst_4_well_formed : (Instr.setst 4#3).wellFormed = true := by decide
theorem test_config_wf : (config .noop).wf = true := by decide
theorem test_config_bad_porch : ({ config .noop with horizontal := ⟨60, 20, 21⟩ }).wf = false := by decide
theorem test_config_table_too_long : ({ config .noop with nRec := 1#16 }).wf = false := by decide
theorem test_memory_wf_zero_entry : Memory.wf [(0, 0x00#8)] = false := by decide
theorem test_memory_wf_order : Memory.wf [(1, 0x01#8), (0, 0x02#8)] = false := by decide

/-! ## Words written out bit by bit (R81, R85, V1, V8) -/

theorem test_decode_prepare : decodeHost 0b00000000000000000000000000000000#32 = .ok .prepare := by decide
theorem test_decode_enable : decodeHost 0b00000000000000000000000000000001#32 = .ok .enable := by decide
theorem test_decode_disable : decodeHost 0b00000000000000000000000000000010#32 = .ok .disable := by decide
theorem test_decode_unprepare : decodeHost 0b00000000000000000000000000000011#32 = .ok .unprepare := by decide
theorem test_decode_getModes : decodeHost 0b00000000000000000000000000000100#32 = .ok .getModes := by decide
theorem test_decode_end : decodeUop 0b0000_0000_0000_0000#16 = .ok .endProgram := by decide
theorem test_decode_rail_off_nonfatal : decodeUop 0b0001_0000_0000_0000#16 = .ok (.rail false false) := by decide
theorem test_decode_rail_on_nonfatal : decodeUop 0b0001_0000_0000_0001#16 = .ok (.rail false true) := by decide
theorem test_decode_rail_off_fatal : decodeUop 0b0001_0000_0000_0010#16 = .ok (.rail true false) := by decide
theorem test_decode_rst_low : decodeUop 0b0010_0000_0000_0000#16 = .ok (.rst .low) := by decide
theorem test_decode_rst_high : decodeUop 0b0010_0000_0000_0001#16 = .ok (.rst .high) := by decide
theorem test_decode_wait_0 : decodeUop 0b0011_0000_0000_0000#16 = .ok (.wait 0#12) := by decide
theorem test_decode_wait_120 : decodeUop 0b0011_0000_0111_1000#16 = .ok (.wait 120#12) := by decide
theorem test_decode_replay : decodeUop 0b0100_0000_0000_0000#16 = .ok .replay := by decide
theorem test_decode_enter_sleep : decodeUop 0b0101_0011_0001_0000#16 = .ok (.dcsEnterSleep 3#2) := by decide
theorem test_decode_exit_sleep : decodeUop 0b0101_0000_0001_0001#16 = .ok (.dcsExitSleep 0#2) := by decide
theorem test_decode_display_off : decodeUop 0b0101_0010_0010_1000#16 = .ok (.dcsDisplayOff 2#2) := by decide
theorem test_decode_display_on : decodeUop 0b0101_0001_0010_1001#16 = .ok (.dcsDisplayOn 1#2) := by decide
theorem test_decode_setst_sleeping : decodeUop 0b0110_0000_0000_0100#16 = .ok (.setst 4#3) := by decide
theorem test_illegal_end : decodeUop 0x0001#16 = .error .reservedBits := by decide
theorem test_illegal_rail : decodeUop 0x1004#16 = .error .reservedBits := by decide
theorem test_illegal_rst : decodeUop 0x2002#16 = .error .reservedBits := by decide
theorem test_illegal_replay : decodeUop 0x4001#16 = .error .reservedBits := by decide
theorem test_illegal_selector : decodeUop 0x5012#16 = .error .badSelector := by decide
theorem test_illegal_dcs_bits : decodeUop 0x5411#16 = .error .reservedBits := by decide
theorem test_illegal_setst_code : decodeUop 0x6005#16 = .error .badStateCode := by decide
theorem test_illegal_setst_bits : decodeUop 0x6008#16 = .error .reservedBits := by decide
theorem test_illegal_class_7 : decodeUop 0x7000#16 = .error .reservedClass := by decide
theorem test_illegal_class_f : decodeUop 0xF123#16 = .error .reservedClass := by decide
theorem test_illegal_op_5 : decodeHost 0x00000005#32 = .error .reservedOp := by decide
theorem test_illegal_bit_3 : decodeHost 0x00000008#32 = .error .reservedHostBits := by decide
theorem test_illegal_bit_31 : decodeHost 0x80000001#32 = .error .reservedHostBits := by decide
theorem test_table_word_host : decodeTableWord 32 4 = some .getModes := by decide
theorem test_table_word_uop : decodeTableWord 16 0x5129 = some (.dcsDisplayOn 1#2) := by decide

/-! ## One step of each instruction -/

/-- V3 P-a: PREPARE is accepted at t = 0. -/
theorem test_prepare_starts : nextIs (turn blank (hostTurn (.write 0x00 0x00000000#32))) (fun t =>
    t.busy ∧ t.curOp = some .prepare ∧ t.upc = 0 ∧ t.trace = [⟨.accept .prepare, 0, 0⟩]) = true := by decide

/-- W2: a second PREPARE is a StateError with no hardware action. -/
theorem test_prepare_twice : nextIs (turn (idle .resetting) (hostTurn (.write 0x00 0x00000000#32))) (fun t =>
    ¬ t.busy ∧ t.result.code = 3#3 ∧ t.lifeState.code = 1#3 ∧ t.railReq = .on ∧ t.resetN = .driven .high
      ∧ t.trace = [⟨.done .prepare .stateError, 500000, 500000⟩, ⟨.accept .prepare, 500000, 500000⟩]) = true := by decide

/-- V2: a refusal keeps WARN. -/
theorem test_enable_refused : nextIs (turn { idle .active with warn := 0b0011#4 } (hostTurn (.write 0x00 0x00000001#32)))
    (fun t => ¬ t.busy ∧ t.result = .stateError ∧ t.lifeState = .active ∧ t.warn = 0b0011#4) = true := by decide

theorem test_enable_starts : nextIs (turn (idle .resetting) (hostTurn (.write 0x00 0x00000001#32))) (fun t =>
    t.busy ∧ t.curOp = some .enable ∧ t.fetch = some 0x300A#16) = true := by decide

/-- V5: the acceptance of DISABLE clears ENABLE's WARN bits. -/
theorem test_disable_clears_warn : nextIs (turn { idle .active with warn := 0b0011#4 }
    (hostTurn (.write 0x00 0x00000002#32))) (fun t => t.busy ∧ t.warn = 0#4 ∧ t.fetch = some 0x5228#16) = true := by decide

/-- V6 U-d. -/
theorem test_unprepare_noop : nextIs (turn { blank with warn := 0b0001#4 } (hostTurn (.write 0x00 0x00000003#32)))
    (fun t => ¬ t.busy ∧ t.result.code = 0#3 ∧ t.warn = 0#4 ∧ t.railReq = .unknown ∧ t.resetN = .unknown
      ∧ t.trace = [⟨.done .unprepare .ok, 0, 0⟩, ⟨.accept .unprepare, 0, 0⟩]) = true := by decide

/-- V6 U-e. -/
theorem test_unprepare_reissue : nextIs (turn { blank with cfg := config .reissue }
    (hostTurn (.write 0x00 0x00000003#32))) (fun t =>
      t.busy ∧ t.fetch = some 0x2000#16 ∧ t.trace = [⟨.accept .unprepare, 0, 0⟩]) = true := by decide

/-- V7 M-a, with the values of W6. -/
theorem test_get_modes_ok : nextIs (turn blank (hostTurn (.write 0x00 0x00000004#32))) (fun t =>
    t.bank.moClock = ⟨0x10642AC0#32, true⟩ ∧ t.bank.moHdisplay = ⟨0x640#32, true⟩ ∧ t.bank.moHtotal = ⟨0x6A4#32, true⟩
      ∧ t.bank.moVdisplay = ⟨0xA00#32, true⟩ ∧ t.bank.moVtotal = ⟨0xA86#32, true⟩ ∧ t.bank.moWidthMm = ⟨0x10A#32, true⟩
      ∧ t.bank.moHeightMm = ⟨0xA6#32, true⟩ ∧ t.bank.moType = ⟨3#32, true⟩ ∧ t.bank.diWidthMm = ⟨266#32, true⟩
      ∧ t.bank.diHeightMm = ⟨166#32, true⟩ ∧ t.result = .ok ∧ ¬ t.busy) = true := by decide

/-- V7 M-b. -/
theorem test_get_modes_err : nextIs (turn blank ⟨0, some (.write 0x00 0x00000004#32), none, .err⟩) (fun t =>
    t.result.code = 4#3 ∧ ¬ t.bank.moClock.written
      ∧ nextIs (turn t (hostTurn (.read 0x10))) (fun u => u.Faulted)) = true := by decide

/-- V3 P-b: the rail fails. -/
theorem test_rail_fatal : nextIs (turn { blank with busy := true, curOp := some .prepare } (seqTurn 0 (some .err)))
    (fun t => ¬ t.busy ∧ t.lifeState.code = 0#3 ∧ t.result.code = 1#3 ∧ t.railReq = .on ∧ t.resetN = .unknown
      ∧ t.trace = [⟨.done .prepare .powerError, 0, 0⟩, ⟨.rail true .err, 0, 0⟩]) = true := by decide

/-- V6 U-b: the rail-off fails and UNPREPARE goes on. -/
theorem test_rail_nonfatal : nextIs (turn (running .unprepare 2 .active) (seqTurn 7 (some .err))) (fun t =>
    t.busy ∧ t.pend = .powerError ∧ t.upc = 3 ∧ t.railReq = .off
      ∧ t.trace = [⟨.rail false .err, 500007, 500007⟩]) = true := by decide

theorem test_rst_low : nextIs (turn (running .prepare 1 .unpowered) (seqTurn 3 none)) (fun t =>
    t.resetN = .driven .low ∧ t.upc = 2 ∧ t.trace = [⟨.rst .low, 500003, 500003⟩]) = true := by decide

theorem test_rst_high : nextIs (turn (running .prepare 3 .unpowered) (seqTurn 0 none)) (fun t =>
    t.resetN = .driven .high ∧ t.upc = 4) = true := by decide

/-- V3: 119999 microseconds do not open the gate of WAIT 120. -/
theorem test_wait_closed : nextIs (turn (running .prepare 2 .unpowered) (seqTurn 119999 none)) (fun t =>
    t.upc = 2 ∧ t.t0 = 500000 ∧ t.phase = .begun) = true := by decide

/-- V3: 120000 microseconds do. -/
theorem test_wait_open : nextIs (turn { running .prepare 2 .unpowered with phase := .begun, t0 := 500000, lastDone := 7 }
    (seqTurn 120000 none)) (fun t => t.upc = 3 ∧ t.lastDone = 620000) = true := by decide

/-- P1: the second record's bytes, and its count. -/
theorem test_replay_record : nextIs (turn { running .enable 1 .resetting with phase := .begun, ri := 1, recIdx := 1#16 }
    (seqTurn 0 (some .ok))) (fun t =>
      t.recIdx = 2#16 ∧ t.upc = 1 ∧ t.trace = [⟨.write 1 0xB1#8 0x00#8 .ok, 500000, 500000⟩]) = true := by decide

/-- V4 E-c: the first write fails. -/
theorem test_replay_abort : nextIs (turn { running .enable 1 .resetting with phase := .begun }
    (seqTurn 0 (some .err))) (fun t =>
      ¬ t.busy ∧ t.result.code = 2#3 ∧ t.lifeState.code = 1#3 ∧ t.recIdx = 0#16
        ∧ t.trace.map (·.kind) = [.done .enable .transportError, .write 0 0xB0#8 0x5A#8 .err]) = true := by decide

/-- V5 D-c: enter_sleep fails, and the program goes on. -/
theorem test_enter_sleep_err : nextIs (turn (running .disable 1 .active) (seqTurn 0 (some .err))) (fun t =>
    t.busy ∧ t.warn = 0b1000#4 ∧ t.upc = 2 ∧ t.trace.map (·.kind) = [.dcs .enterSleep .err]) = true := by decide

/-- V4 E-e. -/
theorem test_exit_sleep_err : nextIs (turn (running .enable 4 .configured) (seqTurn 0 (some .err))) (fun t =>
    t.busy ∧ t.warn = 0b0001#4 ∧ t.upc = 5) = true := by decide

/-- V5 D-b. -/
theorem test_display_off_err : nextIs (turn (running .disable 0 .active) (seqTurn 0 (some .err))) (fun t =>
    t.busy ∧ t.warn = 0b0100#4 ∧ t.upc = 1) = true := by decide

/-- V4 E-g: the second failure adds its bit. -/
theorem test_display_on_err : nextIs (turn { running .enable 5 .configured with warn := 0b0001#4 } (seqTurn 0 (some .err)))
    (fun t => t.busy ∧ t.warn = 0b0011#4 ∧ t.upc = 6) = true := by decide

/-- The answer comes 3 ms after the request (V3: ts = 0, tc = 3000). -/
theorem test_display_on_late : nextIs (turn { running .enable 5 .configured with
    phase := .awaiting (.dcs .setDisplayOn) 500000 } (seqTurn 3000 (some .ok))) (fun t =>
      t.trace = [⟨.dcs .setDisplayOn .ok, 500000, 503000⟩] ∧ t.warn = 0#4) = true := by decide

theorem test_setst_active : nextIs (turn (running .enable 6 .configured) (seqTurn 0 none)) (fun t =>
    t.lifeState.code = 3#3 ∧ t.upc = 7 ∧ t.trace.map (·.kind) = [.state .active]) = true := by decide

theorem test_setst_illegal : faultIs (exec (.setst 5#3) blank) (.illegalStateCode 5#3) = true := by decide

/-- R172: UNPREPARE's END after a failed rail-off. -/
theorem test_end_power_error : nextIs (turn { running .unprepare 4 .unpowered with pend := .powerError }
    (seqTurn 0 none)) (fun t => ¬ t.busy ∧ t.result.code = 1#3
      ∧ t.trace.map (·.kind) = [.done .unprepare .powerError]) = true := by decide

/-- V4: STATUS during the 120 ms wait of ENABLE is 0xA. -/
theorem test_status_configured : statusWord (running .enable 3 .configured) = 0xA#32 := by decide

/-- V9 X-a: a command while BUSY. -/
theorem test_violation_busy : nextIs (turn (running .prepare 2 .unpowered) (hostTurn (.write 0x00 0x00000002#32)))
    (fun t => t.protoFault ∧ t.busy ∧ t.curOp = some .prepare ∧ t.upc = 2 ∧ t.trace = []) = true := by decide

/-- V9 X-d: the read of an unmapped register. -/
theorem test_violation_unmapped : nextIs (turn blank (hostTurn (.read 0x07))) (fun t =>
    t.protoFault ∧ t.readData = some (0x07, 0#32)) = true := by decide

/-- V10 A-a. -/
theorem test_attach_unknown : nextIs (turn { blank with live := false } (hostTurn (.attach ['x']))) (fun t =>
    ¬ t.live ∧ t.attachResult.code = 5#3) = true := by decide

/-- V10 A-b. -/
theorem test_attach_known : nextIs (turn { idle .active with live := false, protoFault := true }
    (hostTurn (.attach ['k']))) (fun t =>
      t.live ∧ ¬ t.protoFault ∧ t.lifeState = .unpowered ∧ t.cfg = config .noop ∧ t.railReq = .unknown) = true := by decide

/-- V10 A-c: detach from Active enters UNPREPARE. -/
theorem test_detach_active : nextIs (turn (idle .active) (hostTurn .detach)) (fun t =>
    t.live ∧ t.busy ∧ t.fetch = some 0x2000#16) = true := by decide

/-- V10 A-d: detach from Unpowered. -/
theorem test_detach_unpowered : nextIs (turn blank (hostTurn .detach)) (fun t => ¬ t.live ∧ t.trace = []) = true := by decide

/-- What withFetchWord places is what the next step runs. -/
theorem test_fetch_word : nextIs (step (blank.withFetchWord 16 0x6003)) (fun t => t.lifeState = .active) = true := by decide

/-- R94. -/
theorem test_asm : asmText (.dcsDisplayOn 1#2) = "DCS display_on, w1" := by decide

/-! ## States that meet the invariants -/

theorem nextIs_next (o : Host.Outcome State Fault Refusal) (p : State → Bool) (h : nextIs o p = true) :
    ∃ t, o = .next t ∧ p t = true := by
  cases o with
  | next t => exact ⟨t, rfl, h⟩
  | fault _ => cases h
  | refused _ => cases h

/-- P1 at t = 250000, in ENABLE's replay after the first record: every gate so far has been met exactly. -/
def mid (inputs : List Input) : State :=
  { running .enable 1 .resetting with
    phase := .begun
    ri := 1
    recIdx := 1#16
    now := 250000
    lastDone := 250000
    inputs := inputs
    trace := [⟨.write 0 0xB0#8 0x5A#8 .ok, 250000, 250000⟩, ⟨.accept .enable, 240000, 240000⟩,
      ⟨.done .prepare .ok, 240000, 240000⟩, ⟨.state .resetting, 240000, 240000⟩, ⟨.rst .high, 120000, 120000⟩,
      ⟨.rst .low, 0, 0⟩, ⟨.rail true .ok, 0, 0⟩, ⟨.accept .prepare, 0, 0⟩] }

theorem test_mid_configured (l : List Input) : (mid l).Configured :=
  ⟨rfl, by simp [mid, running, idle, blank]; decide⟩

theorem test_mid_sequenced (l : List Input) : (mid l).Sequenced where
  rom := rfl
  running := fun _ _ => ⟨.enable, rfl, by
    simp [State.At, State.Powered, mid, running, idle, blank, State.reset]⟩
  waiting := fun _ _ op h => by
    cases h
    simp [mid, waitsAt, running]
  resting := fun _ h => by cases h
  detach := fun h => by cases h

theorem test_mid_clocked (l : List Input) : (mid l).Clocked where
  ordered := by simp [mid, Ordered, lastTc]
  past := by simp [mid, lastTc]
  done := by simp [mid]
  outstanding := fun _ _ _ h => by cases h

theorem test_mid_gated (l : List Input) : (mid l).Gated where
  kept := by simp [mid, GatesKept, gateBetween]
  running := fun _ _ op h => by
    cases h
    refine ⟨by simp [mid, running], by simp [mid, running], fun _ _ _ => ⟨_, _, 0, 0xB0#8, 0x5A#8, rfl, rfl⟩, ?_, ?_, ?_⟩
      <;> simp [mid, running]

theorem test_mid_settled (l : List Input) : (mid l).Settled where
  traffic := by simp [mid, TrafficSettled, EventKind.isTraffic, ReleasedBefore, lastRelease]
  releasing := fun _ _ h => by cases h
  released := fun _ _ h => by cases h
  resetting := fun _ _ => ⟨120000, rfl, by simp [mid]⟩
  enabling := fun _ _ _ _ => ⟨120000, rfl, by simp [mid]⟩
  active := fun _ h => by cases h

theorem test_mid_replayed (l : List Input) : (mid l).Replayed where
  bound := by simp [mid, running, idle, blank, config]
  loop := fun _ => ⟨rfl, _, rfl⟩
  written := fun _ h => by rcases h with h | h | h <;> cases h
  entered := fun _ _ _ h => by rcases h with h | ⟨_, h⟩ <;> cases h
  replayed := fun _ _ _ h => by cases h

/-- The same with a detach waiting. -/
theorem test_mid_detaching_sequenced (l : List Input) : ({ mid l with detaching := true }).Sequenced where
  rom := rfl
  running := fun _ _ => ⟨.enable, rfl, by simp [State.At, State.Powered, mid, running, idle, blank, State.reset]⟩
  waiting := fun _ _ op h => by
    cases h
    simp [mid, waitsAt, running]
  resting := fun _ h => by cases h
  detach := fun _ => ⟨rfl, rfl⟩

theorem test_mid_detaching_replayed (l : List Input) : ({ mid l with detaching := true }).Replayed where
  bound := by simp [mid, running, idle, blank, config]
  loop := fun _ => ⟨rfl, _, rfl⟩
  written := fun _ h => by rcases h with h | h | h <;> cases h
  entered := fun _ _ _ h => by rcases h with h | ⟨_, h⟩ <;> cases h
  replayed := fun _ _ _ h => by cases h

theorem test_mid_paced (l : List Input) : (mid l).Paced where
  kept := by
    refine ⟨?_, ?_, ?_, ?_, ?_, ?_, ?_, ?_, ?_, ?_, ?_, ?_, ?_, ?_, ?_, ?_, trivial⟩
    all_goals first
      | (intro r h; cases h; done)
      | (intro op r _ h; cases h; done)
      | (intro op r _ h; cases h; intro _; exact ⟨0, rfl, by simp [minDuration]⟩)
  running := fun _ _ op h _ => by
    cases h
    exact ⟨240000, rfl, by simp [gatesPassed, mid, running]⟩
  tearingDown := fun _ _ h => by cases h

/-- The hypotheses of the seven statements that every step keeps an invariant. -/
theorem test_wit_invariants_kept : ∃ s t : State, s.Configured ∧ s.Sequenced ∧ s.Clocked ∧ s.Gated ∧ s.Settled
    ∧ s.Replayed ∧ s.Paced ∧ step s = .next t ∧ t.recIdx = 2#16 := by
  obtain ⟨t, h, ht⟩ := nextIs_next (step (mid [seqTurn 0 (some .ok)])) (fun t => t.recIdx = 2#16) (by decide)
  exact ⟨_, t, test_mid_configured _, test_mid_sequenced _, test_mid_clocked _, test_mid_gated _, test_mid_settled _,
    test_mid_replayed _, test_mid_paced _, h, by simpa using ht⟩

/-- EnableAborts. -/
theorem test_wit_EnableAborts : ∃ s : State, s.Sequenced ∧ s.Replayed ∧ s.Replaying
    ∧ s.nextInput.host = none ∧ s.nextInput.resp = some .err ∧ s.recIdx.toNat < s.cfg.nRec.toNat :=
  ⟨mid [seqTurn 0 (some .err)], test_mid_sequenced _, test_mid_replayed _, ⟨rfl, rfl, rfl, rfl, by decide⟩, rfl, rfl,
    by decide⟩

/-- EnableAborts and OperationOutcomes with a detach waiting: the hypotheses of both. -/
theorem test_wit_EnableAborts_detaching : ∃ s t : State, s.Sequenced ∧ s.Replayed ∧ s.Replaying ∧ s.detaching = true
    ∧ s.nextInput.host = none ∧ s.nextInput.resp = some .err ∧ s.recIdx.toNat < s.cfg.nRec.toNat ∧ step s = .next t
    ∧ s.EndsWith t .transportError ∧ t.curOp = some .unprepare := by
  obtain ⟨t, h, ht⟩ := nextIs_next (step { mid [seqTurn 0 (some .err)] with detaching := true }) (fun t =>
    t.curOp = some .unprepare ∧ t.trace = ⟨.done .enable .transportError, t.now, t.now⟩
      :: ⟨.write 1 0xB1#8 0x00#8 .err, 250000, 250000⟩ :: (mid [seqTurn 0 (some .err)]).trace) (by decide)
  have ht := of_decide_eq_true ht
  exact ⟨_, t, test_mid_detaching_sequenced _, test_mid_detaching_replayed _, ⟨rfl, rfl, rfl, rfl, by decide⟩, rfl, rfl, rfl,
    by decide, h, ⟨.enable, _, ht.2, .inr ⟨_, rfl⟩⟩, ht.1⟩

/-- OperationOutcomes for an aborted ENABLE; BusyFalls by a raise. -/
theorem test_wit_EnableFails : ∃ s t : State, s.curOp = some .enable ∧ s.Sequenced ∧ s.Replayed ∧ s.live = true
    ∧ step s = .next t ∧ s.busy = true ∧ t.busy = false ∧ ∃ r, s.EndsWith t r := by
  obtain ⟨t, h, ht⟩ := nextIs_next (step (mid [seqTurn 0 (some .err)])) (fun t => !t.busy ∧
    t.trace = ⟨.done .enable .transportError, t.now, t.now⟩
      :: ⟨.write 1 0xB1#8 0x00#8 .err, 250000, 250000⟩ :: (mid [seqTurn 0 (some .err)]).trace) (by decide)
  have ht := of_decide_eq_true ht
  exact ⟨_, t, rfl, test_mid_sequenced _, test_mid_replayed _, rfl, h, rfl, by simpa using ht.1, .transportError, .enable, _,
    ht.2, .inr ⟨_, rfl⟩⟩

/-- ReplayDeterministic, for the last record: two replays that stand at it at different times. -/
theorem test_wit_ReplayDeterministic : ∃ s u : State, s.Sequenced ∧ u.Sequenced ∧ s.Replayed ∧ u.Replayed ∧ s.Replaying
    ∧ u.Replaying ∧ s.cfg = u.cfg ∧ s.recIdx = u.recIdx ∧ s.nextInput.host = none ∧ u.nextInput.host = none
    ∧ s.nextInput.resp = some .ok ∧ u.nextInput.resp = some .ok ∧ s.recIdx.toNat < s.cfg.nRec.toNat ∧ s ≠ u := by
  refine ⟨mid [seqTurn 0 (some .ok)], mid [seqTurn 7 (some .ok)], test_mid_sequenced _, test_mid_sequenced _,
    test_mid_replayed _, test_mid_replayed _, ⟨rfl, rfl, rfl, rfl, by decide⟩, ⟨rfl, rfl, rfl, rfl, by decide⟩, rfl, rfl, rfl,
    rfl, rfl, rfl, by decide, ?_⟩
  intro h
  cases congrArg State.inputs h

theorem test_wit_LinkParametersUnread : ∃ s t : State, s.live = true ∧ s.nextInput.host ≠ some (.read 0x06)
    ∧ step s = .next t := by
  obtain ⟨t, h, -⟩ := nextIs_next (step (mid [hostTurn (.read 0x05)])) (fun _ => true) (by decide)
  exact ⟨_, t, rfl, by decide, h⟩

/-- A running program at the beginning of a micro-op is sequenced where `State.At` holds. -/
theorem sequenced_of_at (s : State) (op : HostOp) (hrom : s.urom = MicroRom.fixed) (hb : s.busy = true)
    (hop : s.curOp = some op) (hp : s.phase = .fresh) (hd : s.detaching = false) (h : s.At op) : s.Sequenced where
  rom := hrom
  running := fun _ _ => ⟨op, hop, h⟩
  waiting := fun _ _ _ _ _ hw => by rw [hp] at hw; cases hw
  resting := fun _ hi => by rw [hb] at hi; cases hi
  detach := fun hx => by rw [hd] at hx; cases hx

/-- An idle instance that rests is sequenced. -/
theorem sequenced_of_rest (s : State) (hrom : s.urom = MicroRom.fixed) (hb : s.busy = false) (hd : s.detaching = false)
    (h : s.Rest) : s.Sequenced where
  rom := hrom
  running := fun _ hi => by rw [hb] at hi; cases hi
  waiting := fun _ hi => by rw [hb] at hi; cases hi
  resting := fun _ _ => h
  detach := fun hx => by rw [hd] at hx; cases hx

/-- The whole table has been replayed, and no replay runs. -/
theorem replayed_of_full (s : State) (hr : s.recIdx = s.cfg.nRec) (hp : s.phase = .fresh)
    (hop : s.curOp = some .enable → 2 ≤ s.upc) : s.Replayed where
  bound := by rw [hr]
  loop := fun h => (h.2.2.2.2 hp).elim
  written := fun _ _ => hr
  entered := fun _ _ ho hu => by have := hop ho; omega
  replayed := fun _ _ _ _ => hr

/-- A program of `op` in the state `s` ends in the coming step. -/
abbrev Ends (op : HostOp) (s t : State) : Prop :=
  s.curOp = some op ∧ s.Sequenced ∧ s.Replayed ∧ s.live = true ∧ step s = .next t ∧ s.busy = true ∧ t.busy = false
    ∧ ∃ r, s.EndsWith t r

/-- The newest event is DONE, and it came with at most one event before it. -/
def endsIn (s t : State) (op : HostOp) (r : ResultCode) : Bool :=
  match t.trace with
  | [] => false
  | e :: older => decide (e = ⟨.done op r, t.now, t.now⟩) && (decide (older = s.trace) || decide (older.tail = s.trace ∧ older ≠ []))

theorem endsWith_of (s t : State) (op : HostOp) (r : ResultCode) (h : endsIn s t op r = true) : s.EndsWith t r := by
  unfold endsIn at h
  split at h
  · cases h
  · rename_i e older he
    simp only [Bool.and_eq_true, Bool.or_eq_true, decide_eq_true_eq] at h
    refine ⟨op, older, by rw [he, h.1], ?_⟩
    rcases h.2 with h | ⟨h, hn⟩
    · exact .inl h
    · cases older with
      | nil => exact absurd rfl hn
      | cons e' l => exact .inr ⟨e', by rw [← h, List.tail_cons]⟩

/-- A step that ends an operation meets the hypotheses of OperationOutcomes and BusyFalls. -/
theorem ends (s : State) (op : HostOp) (r : ResultCode) (hop : s.curOp = some op) (hl : s.live = true) (hb : s.busy = true)
    (hs : s.Sequenced) (hr : s.Replayed) (h : nextIs (step s) (fun t => !t.busy && endsIn s t op r) = true) :
    ∃ t, Ends op s t := by
  obtain ⟨t, h, ht⟩ := nextIs_next _ _ h
  simp only [Bool.and_eq_true, Bool.not_eq_true'] at ht
  exact ⟨t, hop, hs, hr, hl, h, hb, ht.1, r, endsWith_of s t op r ht.2⟩

/-- A program of `op` at `upc` whose replay is complete. -/
def full (op : HostOp) (upc : Nat) (life : LifeState) (r : Option Resp) : State :=
  { running op upc life with recIdx := 2#16, inputs := [seqTurn 0 r] }

theorem test_wit_PrepareEnds : ∃ s t : State, Ends .prepare s t :=
  ⟨full .prepare 6 .resetting none, ends _ _ .ok rfl rfl rfl
    (sequenced_of_at _ .prepare rfl rfl rfl rfl rfl (by simp [State.At, full, running, idle, blank, State.reset]))
    (replayed_of_full _ rfl rfl (by decide)) (by decide)⟩

theorem test_wit_PrepareFails : ∃ s t : State, Ends .prepare s t :=
  ⟨full .prepare 0 .unpowered (some .err), ends _ _ .powerError rfl rfl rfl
    (sequenced_of_at _ .prepare rfl rfl rfl rfl rfl (by simp [State.At, full, running, idle, blank, State.reset]))
    (replayed_of_full _ rfl rfl (by decide)) (by decide)⟩

theorem test_wit_EnableEnds : ∃ s t : State, Ends .enable s t :=
  ⟨full .enable 7 .active none, ends _ _ .ok rfl rfl rfl
    (sequenced_of_at _ .enable rfl rfl rfl rfl rfl
      (by simp [State.At, State.Powered, full, running, idle, blank, State.reset]))
    (replayed_of_full _ rfl rfl (by decide)) (by decide)⟩

theorem test_wit_DisableEnds : ∃ s t : State, Ends .disable s t :=
  ⟨full .disable 3 .sleeping none, ends _ _ .ok rfl rfl rfl
    (sequenced_of_at _ .disable rfl rfl rfl rfl rfl
      (by simp [State.At, State.Powered, full, running, idle, blank, State.reset]))
    (replayed_of_full _ rfl rfl (by decide)) (by decide)⟩

theorem test_wit_UnprepareEnds : ∃ s t : State, Ends .unprepare s t :=
  ⟨{ full .unprepare 4 .unpowered none with railReq := .off, resetN := .driven .low }, ends _ _ .ok rfl rfl rfl
    (sequenced_of_at _ .unprepare rfl rfl rfl rfl rfl
      (by simp [State.At, full, running, idle, blank, State.reset, State.requesting]))
    (replayed_of_full _ rfl rfl (by decide)) (by decide)⟩

/-! ## The hypotheses of the other statements, each clause at a boundary -/

theorem test_wit_decode_ok : decode (.uop 0x6004#16) = .ok (.setst 4#3) ∧ (Instr.setst 4#3).wellFormed = true
    ∧ decode (.host 0x00000004#32) = .ok .getModes ∧ Instr.getModes.wellFormed = true := by decide

theorem test_wit_IllegalMicroOps : ∃ (s : State) (w : UopWord) (e : DecodeError), s.nextInput.host = none
    ∧ s.live = true ∧ s.busy = true ∧ s.fetch = some w ∧ decodeUop w = .error e :=
  ⟨(blank.withFetchWord 16 0x6005), 0x6005#16, .badStateCode, by decide⟩

theorem test_wit_ResultCodes : ∃ s t : State, step s = .next t ∧ s.result ≠ .notFound := by
  obtain ⟨t, h, -⟩ := nextIs_next (turn { blank with live := false } (hostTurn (.attach ['x']))) (fun _ => true) (by decide)
  exact ⟨_, t, h, by decide⟩

/-- DetachBegins and PacedKept: an operation that a detach waits for ends, in a powered state and by UNPREPARE itself. -/
theorem test_wit_DetachGoesOn : ∀ p ∈ [(HostOp.disable, 3, LifeState.sleeping, RailReq.on, Level.high),
    (.unprepare, 4, .unpowered, .off, .low)], ∃ s t : State, s.Sequenced ∧ s.detaching = true ∧ s.busy = true
      ∧ s.live = true ∧ s.curOp = some p.1 ∧ s.lifeState = p.2.2.1 ∧ step s = .next t ∧ s.EndsWith t .ok := by
  have key : ∀ (s : State) (op : HostOp), s.urom = MicroRom.fixed → s.live = true → s.busy = true → s.detaching = true →
      s.curOp = some op → s.phase = .fresh → s.At op → nextIs (step s) (fun t => endsIn s t op .ok) = true →
      ∃ t, s.Sequenced ∧ s.detaching = true ∧ s.busy = true ∧ s.live = true ∧ s.curOp = some op ∧ step s = .next t
        ∧ s.EndsWith t .ok := by
    intro s op hrom hl hb hd hop hp hat h
    obtain ⟨t, h, ht⟩ := nextIs_next _ _ h
    refine ⟨t, ⟨hrom, fun _ _ => ⟨op, hop, hat⟩, ?_, ?_, fun _ => ⟨hl, hb⟩⟩, hd, hb, hl, hop, h, endsWith_of s t op .ok ht⟩
    · intro _ _ _ _ _ hw; rw [hp] at hw; cases hw
    · intro _ hi; rw [hb] at hi; cases hi
  intro p hm
  simp only [List.mem_cons, List.not_mem_nil, or_false] at hm
  rcases hm with rfl | rfl
  · obtain ⟨t, h1, h2, h3, h4, h5, h6, h7⟩ := key { full .disable 3 .sleeping none with detaching := true } .disable rfl rfl rfl
      rfl rfl rfl (by simp [State.At, State.Powered, full, running, idle, blank, State.reset]) (by decide)
    exact ⟨_, t, h1, h2, h3, h4, h5, rfl, h6, h7⟩
  · obtain ⟨t, h1, h2, h3, h4, h5, h6, h7⟩ := key
      { full .unprepare 4 .unpowered none with detaching := true, railReq := .off, resetN := .driven .low } .unprepare rfl rfl
      rfl rfl rfl rfl (by simp [State.At, full, running, idle, blank, State.reset, State.requesting]) (by decide)
    exact ⟨_, t, h1, h2, h3, h4, h5, rfl, h6, h7⟩

/-- What becomes of them: UNPREPARE follows, and the instance ends. -/
theorem test_detach_goes_on :
    nextIs (turn { full .disable 3 .sleeping none with detaching := true } (seqTurn 0 none)) (fun t =>
      t.live ∧ t.busy ∧ t.detaching ∧ t.fetch = some 0x2000#16) = true
    ∧ nextIs (turn { full .unprepare 4 .unpowered none with detaching := true } (seqTurn 0 none)) (fun t =>
      ¬ t.live ∧ ¬ t.busy) = true := by decide

/-- R266: the DONE of an UNPREPARE that a command started, 120 ms after its ACCEPT. -/
def tearing : State :=
  { full .unprepare 4 .unpowered none with
    railReq := .off
    resetN := .driven .low
    lastDone := 500000
    trace := [⟨.state .unpowered, 500000, 500000⟩, ⟨.rail false .ok, 500000, 500000⟩, ⟨.rst .low, 380000, 380000⟩,
      ⟨.accept .unprepare, 380000, 380000⟩] }

theorem test_wit_PacedKept : ∃ t, tearing.Sequenced ∧ tearing.Clocked ∧ tearing.Paced ∧ step tearing = .next t
    ∧ tearing.live = true ∧ tearing.busy = true ∧ tearing.curOp = some .unprepare ∧ tearing.detaching = false
    ∧ tearing.EndsWith t .ok := by
  obtain ⟨t, h, ht⟩ := nextIs_next (step tearing) (fun t => endsIn tearing t .unprepare .ok) (by decide)
  refine ⟨t, sequenced_of_at _ .unprepare rfl rfl rfl rfl rfl ?_, ⟨?_, ?_, ?_, ?_⟩, ⟨?_, ?_, ?_⟩, h, rfl, rfl, rfl, rfl,
    endsWith_of _ _ _ _ ht⟩
  · simp [State.At, tearing, full, running, idle, blank, State.reset, State.requesting]
  · simp [tearing, Ordered, lastTc]
  · simp [tearing, lastTc, full, running, idle]
  · simp [tearing, full, running, idle]
  · intro _ _ _ h
    cases h
  · refine ⟨?_, ?_, ?_, ?_, ?_, ?_, ?_, ?_, trivial⟩ <;> first | (intro r h; cases h; done) | (intro op r _ h; cases h)
  · intro _ _ op h ho
    cases h
    rcases ho with ho | ho <;> cases ho
  · intro _ _ _
    refine ⟨?_, fun _ => ⟨380000, rfl, by simp [gatesPassed, tearing, full, running]⟩⟩
    intro a ha
    cases ha
    simp [gatesPassed, tearing, full, running]

theorem test_wit_Attach_unknown : { blank with live := false }.live = false ∧ lookup blank.registry ['x'] = none := by
  decide

theorem test_wit_Attach_lookup : (['k'], config .noop) ∈ blank.registry
    ∧ (∀ d, (['k'], d) ∈ blank.registry → d = config .noop) ∧ ∀ c, (['x'], c) ∉ blank.registry := by
  simp [blank]

theorem test_wit_Attach_known : { blank with live := false }.live = false
    ∧ lookup blank.registry ['k'] = some (config .noop) := by decide

/-- DetachBegins: busy, idle in Unpowered, and idle outside it. -/
theorem test_wit_DetachBegins : ∀ s ∈ [running .enable 1 .resetting, blank, idle .sleeping],
    { s with inputs := [hostTurn .detach] }.nextInput.host = some .detach ∧ s.live = true ∧ s.detaching = false := by
  decide

theorem test_wit_InstanceEndsUnpowered : ∃ s t : State, s.Sequenced ∧ s.live = true ∧ step s = .next t
    ∧ t.live = false := by
  obtain ⟨t, h, ht⟩ := nextIs_next (turn blank (hostTurn .detach)) (fun t => !t.live) (by decide)
  exact ⟨_, t, sequenced_of_rest _ rfl rfl rfl (by decide), rfl, h, by simpa using ht⟩

theorem test_wit_StatusReads : blank.live = true := by decide

/-- BankWriteRead at both ends of the bank. -/
theorem test_wit_BankWriteRead : blank.live = true ∧ 0x10 ≤ 0x10 ∧ 0x10 ≤ 0x1F ∧ 0x10 ≤ 0x1F ∧ 0x1F ≤ 0x1F := by decide

/-- The numbers of W6: after GET_MODES the host reads MO_VTOTAL at 0x1A, MO_TYPE at 0x1D and DI_HEIGHT_MM at 0x1F. -/
theorem test_read_after_get_modes : nextIs (turn blank (hostTurn (.write 0x00 0x00000004#32))) (fun t =>
    nextIs (turn t (hostTurn (.read 0x1A))) (fun u => u.readData = some (0x1A, 2694#32))
      ∧ nextIs (turn t (hostTurn (.read 0x1D))) (fun u => u.readData = some (0x1D, 3#32))
      ∧ nextIs (turn t (hostTurn (.read 0x1F))) (fun u => u.readData = some (0x1F, 166#32))) = true := by decide

/-- BankWriteRead after GET_MODES. -/
theorem test_wit_BankWriteRead_modes : blank.live = true ∧ blank.busy = false ∧ blank.draw.alloc = .ok := by decide

/-- UnwrittenReadFaults: the last register of the bank, unwritten and written; the mark stays. -/
theorem test_wit_UnwrittenReadFaults : nextIs (turn blank (hostTurn (.read 0x1F))) (fun t =>
      t.live ∧ t.readFault ∧ ¬ t.protoFault
        ∧ nextIs (turn t (hostTurn (.write 0x1F 7#32))) (fun u => u.readFault)) = true
    ∧ nextIs (hostAccess (.write 0x1F 7#32) blank) (fun t =>
      nextIs (hostAccess (.read 0x1F) t) (fun u => u.readData = some (0x1F, 7#32)
        ∧ ¬ u.Faulted)) = true := by decide

/-- ProtocolViolations: the boundary register numbers of reads. -/
theorem test_wit_violating_reads : ∀ n ∈ [0x07, 0x0F, 0x20], blank.live = true ∧ blank.Violates (.read n) := by
  simp [State.Violates]
  decide

/-- ProtocolViolations: writes to unmapped and read-only registers, words that spell no operation, and CMD while BUSY. -/
theorem test_wit_violating_writes :
    (∀ p ∈ [(0x07, 0#32), (0x0F, 0#32), (0x20, 0#32), (0x01, 0#32), (0x06, 0#32), (0x00, 5#32), (0x00, 8#32)],
      blank.Violates (.write p.1 p.2))
    ∧ (running .enable 3 .configured).Violates (.write 0x00 1#32) := by
  simp only [State.Violates]
  decide

theorem test_wit_dead : { blank with live := false }.live = false := by decide

theorem test_wit_sticky : ∃ s t : State, step s = .next t ∧ s.live = true ∧ s.protoFault = true := by
  obtain ⟨t, h, -⟩ := nextIs_next (turn { blank with protoFault := true } (hostTurn .detach)) (fun _ => true) (by decide)
  exact ⟨_, t, h, rfl, rfl⟩

theorem test_wit_OnlyViolationsFault : ∃ s t : State, step s = .next t ∧ t.protoFault = true ∧ s.protoFault = false := by
  obtain ⟨t, h, ht⟩ := nextIs_next (turn blank (hostTurn (.write 0x06 0#32))) (fun t => t.protoFault) (by decide)
  exact ⟨_, t, h, ht, rfl⟩

theorem test_wit_CommandWhileBusy : Instr.getModes.isHost = true ∧ (running .enable 1 .resetting).live = true
    ∧ (running .enable 1 .resetting).busy = true := by decide

/-- StateErrorRefusal: each operation that has a precondition. -/
theorem test_wit_StateErrorRefusal : ∀ p ∈ [(HostOp.prepare, LifeState.resetting), (.enable, .unpowered),
    (.disable, .sleeping)], (idle p.2).live = true ∧ (idle p.2).busy = false
      ∧ precondition p.1 (idle p.2).lifeState = false := by decide

/-- OperationStarts: each operation. -/
theorem test_wit_OperationStarts : ∀ p ∈ [(HostOp.prepare, LifeState.unpowered), (.enable, .resetting), (.disable, .active),
    (.unprepare, .sleeping)], (idle p.2).live = true ∧ (idle p.2).busy = false
      ∧ ((p.1 = .prepare ∧ (idle p.2).lifeState = .unpowered) ∨ (p.1 = .enable ∧ (idle p.2).lifeState = .resetting)
        ∨ (p.1 = .disable ∧ (idle p.2).lifeState = .active) ∨ (p.1 = .unprepare ∧ (idle p.2).lifeState ≠ .unpowered)) := by
  decide

/-- UnprepareInUnpowered: both values of the parameter. -/
theorem test_wit_UnprepareInUnpowered : ∀ u ∈ [UnprepareMode.noop, .reissue],
    { blank with cfg := config u }.live = true ∧ { blank with cfg := config u }.busy = false
      ∧ { blank with cfg := config u }.lifeState = .unpowered
      ∧ { blank with cfg := config u }.cfg.unprepareWhenUnpowered = u := by decide

/-- GetModes: both answers. -/
theorem test_wit_GetModes : ∀ a ∈ [Resp.ok, .err], { blank with draw := ⟨none, a⟩ }.live = true
    ∧ { blank with draw := ⟨none, a⟩ }.busy = false ∧ { blank with draw := ⟨none, a⟩ }.draw.alloc = a := by decide

theorem test_wit_ModeTotals : blank.Configured ∧ blank.live = true ∧ blank.busy = false ∧ blank.draw.alloc = .ok := by
  decide

/-- GetModesRepeats: two different states of one configuration, and a host write to the bank between two GET_MODES. -/
theorem test_wit_GetModesRepeats : ∃ s u s' u' w w' : State, s.live = true ∧ u.live = true ∧ s.busy = false ∧ u.busy = false
    ∧ s.draw.alloc = .ok ∧ u.draw.alloc = .ok ∧ s.cfg = u.cfg ∧ exec .getModes s = .next s' ∧ exec .getModes u = .next u'
    ∧ hostAccess (.write 0x10 0#32) s = .next w ∧ exec .getModes w = .next w' :=
  ⟨blank, idle .active, _, _, _, _, rfl, rfl, rfl, rfl, rfl, rfl, rfl, rfl, rfl, rfl, rfl⟩

/-- HostInstrFrame, MicroOpFrame and MicroOpOwnRegisters: an instruction of each kind that completes. -/
theorem test_wit_frames :
    (∀ i ∈ [Instr.prepare, .enable, .disable, .unprepare, .getModes], i.isHost = true
      ∧ nextIs (exec i blank) (fun _ => true) = true)
    ∧ (∀ i ∈ [Instr.endProgram, .rail true true, .rst .low, .wait 120#12, .replay, .dcsEnterSleep 3#2, .dcsExitSleep 0#2,
        .dcsDisplayOff 2#2, .dcsDisplayOn 1#2, .setst 0#3], i.isHost = false
      ∧ nextIs (exec i blank) (fun _ => true) = true) := by decide

/-- RailMicroOp, DcsMicroOps and ReplayMicroOp: a request to be issued now, with each answer. -/
theorem test_wit_request_now : ∀ r ∈ [none, some Resp.ok, some .err],
    { running .unprepare 2 .active with draw := ⟨r, .ok⟩ }.curOp = some .unprepare
      ∧ { running .unprepare 2 .active with draw := ⟨r, .ok⟩ }.requesting = false
      ∧ { running .unprepare 2 .active with draw := ⟨r, .ok⟩ }.now = 500000
      ∧ { running .unprepare 2 .active with draw := ⟨r, .ok⟩ }.draw.resp = r := by decide

theorem test_wit_IssuedAt_now : (running .unprepare 2 .active).IssuedAt 500000 := .inr ⟨rfl, rfl⟩

/-- The same with a request issued before. -/
theorem test_wit_IssuedAt_earlier : ∃ s : State, s.IssuedAt 7 ∧ s.requesting = true ∧ s.curOp = some .unprepare
    ∧ s.draw.resp = none :=
  ⟨{ running .unprepare 2 .active with phase := .awaiting (.setRail false) 7 }, .inl ⟨_, rfl⟩, rfl, rfl, rfl⟩

/-- WaitMicroOp: one microsecond before the gate and at it. -/
theorem test_wit_WaitMicroOp : ∃ s u : State, s.phase ≠ .begun ∧ s.lastDone = 500000 ∧ s.now < 500000 + 1000 * (120#12).toNat
    ∧ u.phase = .begun ∧ u.t0 = 500000 ∧ u.now = 500000 + 1000 * (120#12).toNat :=
  ⟨{ running .prepare 2 .unpowered with now := 619999 },
    { running .prepare 2 .unpowered with now := 620000, t0 := 500000, phase := .begun }, by decide⟩

/-- ReplayMicroOp: the beginning, the first record, the last one, and the end. -/
theorem test_wit_ReplayMicroOp :
    (running .enable 1 .resetting).phase = .fresh
    ∧ (∀ k ∈ [0, 1], { running .enable 1 .resetting with phase := .begun, ri := k }.phase ≠ .fresh
      ∧ { running .enable 1 .resetting with phase := .begun, ri := k }.ri < (config .noop).nRec.toNat)
    ∧ (config .noop).nRec.toNat ≤ { running .enable 1 .resetting with phase := .begun, ri := 2 }.ri := by decide

theorem test_wit_EndMicroOp_pend : nextIs (exec (.rail false false) { running .unprepare 2 .active with
    draw := ⟨some .err, .ok⟩ }) (fun t => t.pend = .powerError) = true ∧ (running .unprepare 2 .active).pend = .ok := by
  decide

theorem test_wit_SetstMicroOp : (4#3).toNat ≤ 4 ∧ nextIs (exec (.setst 4#3) blank) (fun t =>
    t.lifeState ≠ blank.lifeState) = true := by decide

theorem test_wit_IllegalStateFaults : 5 ≤ (5#3).toNat ∧ 5 ≤ (7#3).toNat := by decide

theorem test_wit_EndMicroOp : ∀ p ∈ [Pend.ok, .powerError],
    { running .unprepare 4 .unpowered with pend := p }.curOp = some .unprepare
      ∧ { running .unprepare 4 .unpowered with pend := p }.pend = p := by decide

/-- RaiseEndsOperation: both errors. -/
theorem test_wit_RaiseEndsOperation :
    nextIs (exec (.rail true true) { running .prepare 0 .unpowered with draw := ⟨some .err, .ok⟩ }) (fun t => !t.busy)
      = true
    ∧ nextIs (exec .replay { running .enable 1 .resetting with phase := .begun, draw := ⟨some .err, .ok⟩ })
      (fun t => !t.busy) = true
    ∧ (running .prepare 0 .unpowered).curOp = some .prepare ∧ (running .prepare 0 .unpowered).busy = true
    ∧ (Instr.rail true true).isHost = false ∧ Instr.replay.isHost = false := by decide

theorem test_wit_StepRunsDecoded : ∃ (s u : State) (v : HostWord) (w : UopWord) (i j : Instr),
    s.nextInput.host = some (.write 0x00 v) ∧ s.live = true ∧ decodeHost v = .ok i ∧ u.nextInput.host = none
    ∧ u.live = true ∧ u.busy = true ∧ u.fetch = some w ∧ decodeUop w = .ok j :=
  ⟨blank.withFetchWord 32 4, blank.withFetchWord 16 0x4000, 4#32, 0x4000#16, .getModes, .replay, by decide⟩

/-- StepRunsDecoded: host accesses that run no instruction. -/
theorem test_wit_StepRunsDecoded_access : ∀ a ∈ [HostAccess.read 0x01, .write 0x1F 7#32, .write 0x00 5#32, .attach ['k'],
    .detach], { blank with inputs := [hostTurn a] }.nextInput.host = some a := by decide

theorem test_wit_IdleHolds : { blank with inputs := [seqTurn 5 none] }.nextInput.host = none
    ∧ { blank with inputs := [seqTurn 5 none] }.busy = false := by decide

/-- V3 P-e, R13: the trace of the hang ends with the RAIL that never completes. -/
theorem test_hang_trace : { running .prepare 0 .unpowered with
    phase := .awaiting (.setRail true) 7, trace := [⟨.accept .prepare, 7, 7⟩] }.observe.events
      = [.completed ⟨.accept .prepare, 7, 7⟩, .issued (.setRail true) 7] := by decide

/-- An answer drawn in the host's turn is discarded (log 4). -/
theorem test_answer_in_host_turn : nextIs (turn { running .prepare 0 .unpowered with
    phase := .awaiting (.setRail true) 7 } ⟨0, some (.read 0x01), some .err, .ok⟩) (fun t =>
      t.busy ∧ t.phase = .awaiting (.setRail true) 7 ∧ t.trace = []) = true := by decide

/-- UnansweredRequestHangs: V3 P-e, V4 E-i and V4 E-j. -/
theorem test_wit_UnansweredRequestHangs : ∀ p ∈ [(HostOp.prepare, 0), (.enable, 1), (.enable, 4)],
    let s := { running p.1 p.2 .resetting with
      phase := .awaiting (.setRail true) 7, inputs := [seqTurn 5 none] }
    s.live = true ∧ s.busy = true ∧ s.phase = .awaiting (.setRail true) 7 ∧ s.nextInput.host = none
      ∧ s.nextInput.resp = none ∧ s.ri < s.cfg.nRec.toNat ∧ (s.fetch.map decodeUop).isSome = true := by decide

theorem test_wit_RomsNeverWritten : ∃ s t : State, step s = .next t ∧ s.live = true := by
  obtain ⟨t, h, -⟩ := nextIs_next (step (mid [seqTurn 0 (some .ok)])) (fun _ => true) (by decide)
  exact ⟨_, t, h, rfl⟩

theorem test_wit_StateOnlyBySetst : ∃ s t : State, s.live = true ∧ step s = .next t ∧ t.lifeState ≠ s.lifeState := by
  obtain ⟨t, h, ht⟩ := nextIs_next (turn (running .enable 6 .configured) (seqTurn 0 none))
    (fun t => t.lifeState ≠ (running .enable 6 .configured).lifeState) (by decide)
  exact ⟨_, t, rfl, h, by simpa using ht⟩

/-- BusyRises: an accepted command, and a detach. -/
theorem test_wit_BusyRises : ∀ a ∈ [HostAccess.write 0x00 2#32, .detach], ∃ s t : State, s.Sequenced
    ∧ s.nextInput.host = some a ∧ step s = .next t ∧ s.busy = false ∧ t.busy = true := by
  have key : ∀ a, nextIs (turn (idle .active) (hostTurn a)) (fun t => t.busy) = true → ∃ s t : State, s.Sequenced
      ∧ s.nextInput.host = some a ∧ step s = .next t ∧ s.busy = false ∧ t.busy = true := by
    intro a h
    obtain ⟨t, h, ht⟩ := nextIs_next _ _ h
    have hrest : (idle .active).Rest := by decide
    exact ⟨{ idle .active with inputs := [hostTurn a] }, t, sequenced_of_rest _ rfl rfl rfl hrest, rfl, h, rfl, ht⟩
  intro a ha
  simp only [List.mem_cons, List.not_mem_nil, or_false] at ha
  rcases ha with rfl | rfl
  · exact key (.write 0x00 2#32) (by decide)
  · exact key .detach (by decide)

theorem test_wit_SequencerNeverStops : (mid [seqTurn 0 none]).Sequenced ∧ (mid [seqTurn 0 none]).nextInput.host = none :=
  ⟨test_mid_sequenced _, rfl⟩

/-- OnlyStops: each refusal, from a sequenced state (test_mid_sequenced, test_mid_detaching_sequenced). -/
theorem test_wit_OnlyStops :
    refusedIs (step (mid [hostTurn (.attach ['k'])])) .attachWhileLive = true
    ∧ refusedIs (step { mid [hostTurn .detach] with detaching := true }) .detachWhileDetaching = true := by decide

/-- TrafficOnlyPowered: a record's write. -/
theorem test_wit_TrafficOnlyPowered : ∃ s t : State, s.Sequenced ∧ s.live = true ∧ step s = .next t
    ∧ t.trace.map (·.kind) = .write 1 0xB1#8 0x00#8 .ok :: s.trace.map (·.kind) := by
  obtain ⟨t, h, ht⟩ := nextIs_next (step (mid [seqTurn 0 (some .ok)]))
    (fun t => t.trace.map (·.kind) = .write 1 0xB1#8 0x00#8 .ok :: (mid [seqTurn 0 (some .ok)]).trace.map (·.kind))
    (by decide)
  exact ⟨_, t, test_mid_sequenced _, rfl, h, by simpa using ht⟩

end Sys2Proof.Tests
end

section
/-! PROOFS. The scope of the block (spec/00_scope.md): what a micro-op can do and what it leaves alone, the order of the trace, a
request that nobody answers, the configuration, and the invariants at reset. -/

namespace Sys2Proof.Machine

/-! ## Everything a micro-op can do -/

/-- The micro-op that issues a DCS command (R88, R164 to R167). -/
def DcsCmd.microOp : DcsCmd → BitVec 2 → Instr
  | .enterSleep, widx => .dcsEnterSleep widx
  | .exitSleep, widx => .dcsExitSleep widx
  | .setDisplayOff, widx => .dcsDisplayOff widx
  | .setDisplayOn, widx => .dcsDisplayOn widx

theorem exec_dcs (cmd : DcsCmd) (widx : BitVec 2) (s : State) :
    exec (cmd.microOp widx) s = .next (s.dcs cmd widx) := by
  cases cmd <;> rfl

/-- What a micro-op that gives a next state did. -/
inductive MicroEffect (s : State) : Instr → State → Prop where
  /-- the program ended (R172) -/
  | ended : MicroEffect s .endProgram (s.finish s.pend.toResult)
  /-- STATE was written (R170) -/
  | stateSet (c : BitVec 3) (st : LifeState) (hc : LifeState.ofCode c = some st) :
      MicroEffect s (.setst c) (State.emit { s with lifeState := st } (.state st)).complete
  /-- the reset line was driven (R154) -/
  | driven (level : Level) : MicroEffect s (.rst level) (s.drive level).complete
  /-- the gate of a WAIT is closed (R156) -/
  | gateClosed (ms : BitVec 12) (hg : s.now < s.beginWait.t0 + gateMicros ms) : MicroEffect s (.wait ms) s.beginWait
  /-- the gate of a WAIT is open (R156) -/
  | gateOpen (ms : BitVec 12) (hg : s.beginWait.t0 + gateMicros ms ≤ s.now) :
      MicroEffect s (.wait ms) s.beginWait.complete
  /-- the rail request has no answer yet (R233) -/
  | railWaits (fatal en : Bool) (hr : s.draw.resp = none) : MicroEffect s (.rail fatal en) (s.issueRail en)
  /-- the rail request was answered Ok (R152) -/
  | railOk (fatal en : Bool) (hr : s.draw.resp = some .ok) :
      MicroEffect s (.rail fatal en) ((s.issueRail en).answered (.rail en .ok)).complete
  /-- a fatal rail request failed (R152, R171) -/
  | railRaises (en : Bool) (hr : s.draw.resp = some .err) :
      MicroEffect s (.rail true en) (((s.issueRail en).answered (.rail en .err)).raise .powerError)
  /-- a rail request that is not fatal failed (R152) -/
  | railPends (en : Bool) (hr : s.draw.resp = some .err) :
      MicroEffect s (.rail false en) (State.complete { (s.issueRail en).answered (.rail en .err) with pend := .powerError })
  /-- the DCS command has no answer yet (R233) -/
  | dcsWaits (cmd : DcsCmd) (widx : BitVec 2) (hr : s.draw.resp = none) :
      MicroEffect s (cmd.microOp widx) (s.issue (.dcs cmd))
  /-- the DCS command was answered Ok (R163) -/
  | dcsOk (cmd : DcsCmd) (widx : BitVec 2) (hr : s.draw.resp = some .ok) :
      MicroEffect s (cmd.microOp widx) ((s.issue (.dcs cmd)).answered (.dcs cmd .ok)).complete
  /-- the DCS command failed (R163) -/
  | dcsWarns (cmd : DcsCmd) (widx : BitVec 2) (hr : s.draw.resp = some .err) :
      MicroEffect s (cmd.microOp widx)
        (State.complete { (s.issue (.dcs cmd)).answered (.dcs cmd .err) with warn := warnSet s.warn widx })
  /-- the replay began (R160) -/
  | replayBegins (hp : s.phase = .fresh) : MicroEffect s .replay { s with recIdx := 0#16, ri := 0, phase := .begun }
  /-- the write of record RI has no answer yet (R233) -/
  | recordWaits (b0 b1 : Byte) (hp : s.phase ≠ .fresh) (hlt : s.ri < s.cfg.nRec.toNat)
      (hb : tableRead s.cfg s.ri = some (b0, b1)) (hr : s.draw.resp = none) :
      MicroEffect s .replay (s.issue (.write s.ri b0 b1))
  /-- record RI was written (R160) -/
  | recordOk (b0 b1 : Byte) (hp : s.phase ≠ .fresh) (hlt : s.ri < s.cfg.nRec.toNat)
      (hb : tableRead s.cfg s.ri = some (b0, b1)) (hr : s.draw.resp = some .ok) :
      MicroEffect s .replay ((s.issue (.write s.ri b0 b1)).answered (.write s.ri b0 b1 .ok)).countRecord
  /-- the write of record RI failed (R160, R171) -/
  | recordRaises (b0 b1 : Byte) (hp : s.phase ≠ .fresh) (hlt : s.ri < s.cfg.nRec.toNat)
      (hb : tableRead s.cfg s.ri = some (b0, b1)) (hr : s.draw.resp = some .err) :
      MicroEffect s .replay (((s.issue (.write s.ri b0 b1)).answered (.write s.ri b0 b1 .err)).raise .transportError)
  /-- every record is written (R160) -/
  | replayEnds (hp : s.phase ≠ .fresh) (hge : s.cfg.nRec.toNat ≤ s.ri) : MicroEffect s .replay s.complete

section
variable {s t : State}

theorem railEffect {fatal en : Bool} (h : execRail fatal en s = .next t) : MicroEffect s (.rail fatal en) t := by
  rcases rail_cases s t fatal en h with ⟨hr, rfl⟩ | ⟨hr, rfl⟩ | ⟨hr, rfl, rfl⟩ | ⟨hr, rfl, rfl⟩
  · exact .railWaits fatal en hr
  · exact .railOk fatal en hr
  · exact .railRaises en hr
  · exact .railPends en hr

theorem waitEffect {ms : BitVec 12} (h : execWait ms s = .next t) : MicroEffect s (.wait ms) t := by
  rcases wait_cases s t ms h with ⟨hg, rfl⟩ | ⟨hg, rfl⟩
  · exact .gateClosed ms hg
  · exact .gateOpen ms hg

theorem setstEffect {c : BitVec 3} (h : execSetst c s = .next t) : MicroEffect s (.setst c) t := by
  unfold execSetst at h
  split at h
  · rename_i st hc
    cases h
    exact .stateSet c st hc
  · cases h

theorem dcsEffect (cmd : DcsCmd) {widx : BitVec 2} (h : exec (cmd.microOp widx) s = .next t) :
    MicroEffect s (cmd.microOp widx) t := by
  rw [exec_dcs, Host.Outcome.next.injEq] at h
  subst h
  rcases dcs_cases s cmd widx with ⟨hr, heq⟩ | ⟨hr, heq⟩ | ⟨hr, heq⟩ <;> rw [heq]
  · exact .dcsWaits cmd widx hr
  · exact .dcsOk cmd widx hr
  · exact .dcsWarns cmd widx hr

theorem replayEffect (h : execReplay s = .next t) : MicroEffect s .replay t := by
  rcases replay_cases s t h with ⟨hp, rfl⟩ | ⟨hp, hlt, rfl⟩ | ⟨hp, hge, rfl⟩
  · exact .replayBegins hp
  · have hb := tableRead_of_lt s.cfg s.ri hlt
    rcases replayRecord_cases s _ _ with ⟨hr, heq⟩ | ⟨hr, heq⟩ | ⟨hr, heq⟩ <;> rw [heq]
    · exact .recordWaits _ _ hp hlt hb hr
    · exact .recordOk _ _ hp hlt hb hr
    · exact .recordRaises _ _ hp hlt hb hr
  · exact .replayEnds hp hge

/-- Everything a micro-op can do. -/
theorem microOp_cases {i : Instr} (hi : i.isHost = false) (h : exec i s = .next t) : MicroEffect s i t := by
  cases i with
  | prepare | enable | disable | unprepare | getModes => cases hi
  | endProgram => cases h; exact .ended
  | rail fatal en => exact railEffect h
  | rst level => cases h; exact .driven level
  | wait ms => exact waitEffect h
  | replay => exact replayEffect h
  | dcsEnterSleep widx => exact dcsEffect .enterSleep h
  | dcsExitSleep widx => exact dcsEffect .exitSleep h
  | dcsDisplayOff widx => exact dcsEffect .setDisplayOff h
  | dcsDisplayOn widx => exact dcsEffect .setDisplayOn h
  | setst c => exact setstEffect h

end

theorem dcsOfSel_isHost {sel : BitVec 8} {widx : BitVec 2} {i : Instr} (h : dcsOfSel sel widx = .ok i) :
    i.isHost = false := by
  unfold dcsOfSel at h
  repeat' split at h
  all_goals cases h
  all_goals rfl

/-- No word of the micro-program ROM decodes to a host operation (R87). -/
theorem decodeUop_isHost {w : UopWord} {i : Instr} (h : decodeUop w = .ok i) : i.isHost = false := by
  unfold decodeUop at h
  dsimp only at h
  repeat' split at h
  any_goals exact dcsOfSel_isHost h
  all_goals cases h
  all_goals rfl

/-- An invariant is kept by every step when the arrival of an input, the host's turn, a micro-op and a waiting detach keep it. -/
theorem step_keeps {P : State → Prop} (harrive : ∀ s, P s → P s.arrive) (hhost : ∀ s t, HostEffect s t → P s → P t)
    (hmicro : ∀ s i t, s.busy = true → MicroEffect s i t → P s → P t) (hdetach : ∀ s, P s → P s.settleDetach)
    {s t : State} (hs : P s) (h : step s = .next t) : P t := by
  rcases step_cases s t h with ⟨-, -, rfl⟩ | ⟨a, u, -, hu, rfl⟩ | ⟨w, i, u, -, -, hb, -, hi, hu, rfl⟩
  · exact harrive s hs
  · exact hdetach u (hhost _ u hu (harrive s hs))
  · exact hdetach u (hmicro s.arrive i u hb (microOp_cases (decodeUop_isHost hi) hu) (harrive s hs))

/-! ## What no micro-op changes -/

/-- From `s` to `t` only registers that belong to some micro-op have changed, and the trace has only grown. -/
structure State.Framed (s t : State) : Prop where
  cfg : t.cfg = s.cfg
  urom : t.urom = s.urom
  live : t.live = s.live
  protoFault : t.protoFault = s.protoFault
  readFault : t.readFault = s.readFault
  bank : t.bank = s.bank
  curOp : t.curOp = s.curOp
  detaching : t.detaching = s.detaching
  attachResult : t.attachResult = s.attachResult
  readData : t.readData = s.readData
  now : t.now = s.now
  draw : t.draw = s.draw
  inputs : t.inputs = s.inputs
  tick : t.tick = s.tick
  registry : t.registry = s.registry
  trace : s.trace <:+ t.trace

/-- The trace has only grown when events stand before a newer one and the older trace. -/
theorem suffix_append_cons {α : Type} (new older : List α) (e : α) : older <:+ new ++ e :: older :=
  (List.suffix_cons e older).trans (List.suffix_append new _)

/-- Each effect is built from updates of a micro-op's own registers, and the events it emits stand before the older ones; the
field lemmas of these updates give each part of the frame. -/
theorem MicroEffect.framed {s t : State} {i : Instr} (h : MicroEffect s i t) : s.Framed t := by
  cases h <;> constructor <;> simp [suffix_append_cons]

/-- Settles O38: the frame of the effects a micro-op can have. -/
theorem microOpFrame : Obligations.MicroOpFrame := by
  intro i s t hi h
  have hf : s.Framed t := (microOp_cases hi h).framed
  obtain ⟨new, hnew⟩ := hf.trace
  exact ⟨hf.cfg, hf.urom, hf.live, hf.protoFault, hf.bank, hf.curOp, hf.detaching, hf.attachResult, hf.readData, hf.now,
    hf.draw, hf.inputs, hf.tick, hf.registry, hf.readFault, fun a => by rw [hf.cfg], new, hnew.symm⟩

/-! ## The order of the trace -/

/-- The trace is ordered, and neither it nor the completion of the last micro-op lies in the future: what `State.Clocked` says
apart from the outstanding request. -/
structure Recorded (trace : List Event) (lastDone now : Nat) : Prop where
  ordered : Ordered trace
  past : lastTc trace ≤ now
  done : lastDone ≤ now

section
variable {trace : List Event} {lastDone now ts : Nat}

/-- An event issued after every older one has completed may be recorded now. -/
theorem Recorded.cons (h : Recorded trace lastDone now) (k : EventKind) (hts : lastTc trace ≤ ts) (hnow : ts ≤ now) :
    Recorded (⟨k, ts, now⟩ :: trace) lastDone now :=
  ⟨⟨hnow, hts, h.ordered⟩, le_rfl, h.done⟩

theorem Recorded.consNow (h : Recorded trace lastDone now) (k : EventKind) : Recorded (⟨k, now, now⟩ :: trace) lastDone now :=
  h.cons k h.past le_rfl

theorem Recorded.doneEvent (h : Recorded trace lastDone now) (op : Option HostOp) (r : ResultCode) :
    Recorded (doneEvent op r now ++ trace) lastDone now := by
  cases op with
  | none => exact h
  | some op => exact h.consNow (.done op r)

theorem Recorded.doneNow (h : Recorded trace lastDone now) : Recorded trace now now :=
  ⟨h.ordered, h.past, le_rfl⟩

end

section
variable {s t : State}

theorem State.Clocked.recorded (h : s.Clocked) : Recorded s.trace s.lastDone s.now :=
  ⟨h.ordered, h.past, h.done⟩

/-- With no request outstanding, a recorded state is clocked. -/
theorem Recorded.clocked (h : Recorded s.trace s.lastDone s.now) (hq : s.busy = true → s.requesting = false) : s.Clocked where
  ordered := h.ordered
  past := h.past
  done := h.done
  outstanding req ts hb hp := by
    have hreq : s.requesting = true := by simp [State.requesting, hp]
    exact absurd (hreq.symm.trans (hq hb)) (by decide)

theorem Recorded.clocked_of_idle (h : Recorded s.trace s.lastDone s.now) (hb : s.busy = false) : s.Clocked :=
  h.clocked fun hb' => by simp [hb] at hb'

theorem Recorded.complete (h : Recorded s.trace s.lastDone s.now) : s.complete.Clocked :=
  h.doneNow.clocked fun _ => rfl

theorem Recorded.finish (h : Recorded s.trace s.lastDone s.now) (r : ResultCode) : (s.finish r).Clocked :=
  (h.doneEvent s.curOp r).clocked_of_idle rfl

/-- A program that is entered starts with no request outstanding. -/
theorem Recorded.enter (h : Recorded s.trace s.lastDone s.now) (op : HostOp) : (s.enter op).Clocked :=
  h.doneNow.clocked fun _ => rfl

/-- `Clocked` speaks of five fields only. -/
theorem State.Clocked.congr (h : s.Clocked) (htrace : t.trace = s.trace) (hdone : t.lastDone = s.lastDone)
    (hnow : t.now = s.now) (hbusy : t.busy = s.busy) (hphase : t.phase = s.phase) : t.Clocked := by
  refine ⟨?_, ?_, ?_, ?_⟩
  · rw [htrace]; exact h.ordered
  · rw [htrace, hnow]; exact h.past
  · rw [hdone, hnow]; exact h.done
  · rw [htrace, hdone, hnow, hbusy, hphase]; exact h.outstanding

/-- Whether the request of a running micro-op is outstanding or issued now, its issue lies after every event and after the
previous micro-op, and not in the future. -/
theorem State.Clocked.issueTime_bounds (h : s.Clocked) (hb : s.busy = true) :
    lastTc s.trace ≤ s.issueTime ∧ s.lastDone ≤ s.issueTime ∧ s.issueTime ≤ s.now := by
  unfold State.issueTime
  split
  · exact h.outstanding _ _ hb ‹_›
  all_goals exact ⟨h.past, h.done, le_rfl⟩

/-- After `Request` a request issued at the issue time is outstanding (R134). -/
theorem State.phase_request (s : State) (req : Request) :
    ∃ q, s.phase.request req s.now = .awaiting q s.issueTime := by
  unfold State.issueTime
  cases s.phase <;> exact ⟨_, rfl⟩

/-- Issuing a request keeps the order. -/
theorem State.Clocked.requested (h : s.Clocked) (hb : s.busy = true) (req : Request) (htrace : t.trace = s.trace)
    (hdone : t.lastDone = s.lastDone) (hnow : t.now = s.now) (hphase : t.phase = s.phase.request req s.now) :
    t.Clocked := by
  obtain ⟨q, hq⟩ := s.phase_request req
  refine ⟨?_, ?_, ?_, fun req' ts _ hp => ?_⟩
  · rw [htrace]; exact h.ordered
  · rw [htrace, hnow]; exact h.past
  · rw [hdone, hnow]; exact h.done
  · rw [hphase, hq] at hp
    cases hp
    rw [htrace, hdone, hnow]
    exact h.issueTime_bounds hb

theorem State.Clocked.issue (h : s.Clocked) (hb : s.busy = true) (req : Request) : (s.issue req).Clocked :=
  h.requested hb req rfl rfl rfl rfl

theorem State.Clocked.issueRail (h : s.Clocked) (hb : s.busy = true) (en : Bool) : (s.issueRail en).Clocked :=
  h.requested hb (.setRail en) rfl rfl rfl rfl

/-- The event of an answered request, from its issue to now, keeps the order. -/
theorem State.Clocked.answered (h : s.Clocked) (hb : s.busy = true) (k : EventKind) :
    Recorded (s.answered k).trace (s.answered k).lastDone (s.answered k).now := by
  obtain ⟨htrace, -, hnow⟩ := h.issueTime_bounds hb
  exact h.recorded.cons k htrace hnow

theorem State.Clocked.arrive (h : s.Clocked) : s.arrive.Clocked where
  ordered := h.ordered
  past := h.past.trans (Nat.le_add_right _ _)
  done := h.done.trans (Nat.le_add_right _ _)
  outstanding req ts hb hp := by
    obtain ⟨htrace, hdone, hnow⟩ := h.outstanding req ts hb hp
    exact ⟨htrace, hdone, hnow.trans (Nat.le_add_right _ _)⟩

theorem State.Clocked.settleDetach (h : s.Clocked) : s.settleDetach.Clocked := by
  rcases settleDetach_cases s with heq | ⟨-, -, -, heq⟩ | ⟨-, -, -, heq⟩ <;> rw [heq]
  · exact h
  · exact h.congr rfl rfl rfl rfl rfl
  · exact h.recorded.enter .unprepare

theorem MicroEffect.clocked {i : Instr} (he : MicroEffect s i t) (hb : s.busy = true) (h : s.Clocked) : t.Clocked := by
  cases he with
  | ended => exact h.recorded.finish _
  | stateSet _ st => exact Recorded.complete (h.recorded.consNow (.state st))
  | driven level => exact Recorded.complete (h.recorded.consNow (.rst level))
  | gateClosed => exact Recorded.clocked h.recorded fun _ => rfl
  | gateOpen => exact Recorded.complete h.recorded
  | railWaits => exact h.issueRail hb _
  | railOk => exact ((h.issueRail hb _).answered hb _).complete
  | railRaises => exact ((h.issueRail hb _).answered hb _).finish _
  | railPends => exact Recorded.complete ((h.issueRail hb _).answered hb _)
  | dcsWaits => exact h.issue hb _
  | dcsOk => exact ((h.issue hb _).answered hb _).complete
  | dcsWarns => exact Recorded.complete ((h.issue hb _).answered hb _)
  | replayBegins => exact Recorded.clocked h.recorded fun _ => rfl
  | recordWaits => exact h.issue hb _
  | recordOk => exact Recorded.clocked ((h.issue hb _).answered hb _) fun _ => rfl
  | recordRaises => exact ((h.issue hb _).answered hb _).finish _
  | replayEnds => exact h.recorded.complete

/-- A command on a live block is a violation, is done in one step, or enters its program. -/
theorem hostInstr_clocked {i : Instr} (hl : s.live = true)
    (hi : i = .prepare ∨ i = .enable ∨ i = .disable ∨ i = .unprepare ∨ i = .getModes) (ht : exec i s = .next t)
    (h : s.Clocked) : t.Clocked := by
  have hdone : ∀ op r, Recorded (⟨.done op r, s.now, s.now⟩ :: ⟨.accept op, s.now, s.now⟩ :: s.trace) s.lastDone s.now :=
    fun op r => (h.recorded.consNow (.accept op)).consNow (.done op r)
  rcases hostInstr_cases i s t hi hl ht with
    ⟨-, rfl⟩ | ⟨hb, op, -, rfl⟩ | ⟨-, op, -, -, rfl⟩ | ⟨hb, -, rfl⟩ | ⟨hb, rfl | rfl⟩
  · exact h.congr rfl rfl rfl rfl rfl
  · exact (hdone op .stateError).clocked_of_idle hb
  · exact (h.recorded.doneNow.consNow (.accept op)).clocked fun _ => rfl
  · exact (hdone .unprepare .ok).clocked_of_idle hb
  · exact (hdone .getModes .ok).clocked_of_idle hb
  · exact (hdone .getModes .allocationError).clocked_of_idle hb

theorem HostEffect.clocked (he : HostEffect s t) (h : s.Clocked) : t.Clocked := by
  cases he with
  | dead => exact h
  | command hl i _ hi ht => exact hostInstr_clocked hl hi ht h
  | create _ c =>
    have hnew : Recorded [] s.now s.now := ⟨trivial, Nat.zero_le _, le_rfl⟩
    exact Recorded.clocked_of_idle (s := s.create c) hnew rfl
  | read | readUnmapped | violation | bank | notFound | detach => exact h.congr rfl rfl rfl rfl rfl

end

/-- Settles O51: each part of a step keeps the order of the trace, with the outstanding request in its place. -/
theorem clockedKept : Obligations.ClockedKept := fun _ _ =>
  step_keeps (P := State.Clocked) (fun _ h => h.arrive) (fun _ _ he h => he.clocked h)
    (fun _ _ _ hb he h => he.clocked hb h) (fun _ h => h.settleDetach)

/-! ## A request without an answer -/

/-- With a request outstanding no request is issued again (R134). -/
theorem issue_of_awaiting {s : State} {req : Request} {ts : Nat} (hp : s.phase = .awaiting req ts) (q : Request) :
    s.issue q = s := by
  unfold State.issue
  rw [hp, Phase.request_awaiting, ← hp]

theorem issueRail_of_awaiting {s : State} {req : Request} {ts : Nat} (hp : s.phase = .awaiting req ts) (en : Bool) :
    s.issueRail en = s := by
  have hr : s.requesting = true := by simp [State.requesting, hp]
  unfold State.issueRail
  rw [if_pos hr, hp, Phase.request_awaiting, ← hp]

/-- The micro-ops that issue a request: RAIL, REPLAY while a record is left, and the DCS micro-ops. -/
def State.Requests (s : State) (i : Instr) : Prop :=
  (∃ fatal en, i = .rail fatal en) ∨ (i = .replay ∧ s.ri < s.cfg.nRec.toNat) ∨ ∃ cmd widx, i = DcsCmd.microOp cmd widx

/-- A micro-op whose request is outstanding changes nothing in a turn that brings no answer (R233). -/
theorem exec_unanswered {s : State} {i : Instr} {req : Request} {ts : Nat} (hi : s.Requests i)
    (hp : s.phase = .awaiting req ts) (hr : s.draw.resp = none) : exec i s = .next s := by
  rcases hi with ⟨fatal, en, rfl⟩ | ⟨rfl, hlt⟩ | ⟨cmd, widx, rfl⟩
  · simp [exec, execRail, issueRail_of_awaiting hp, hr]
  · simp [exec, execReplay, hp, hlt, tableRead_of_lt, State.replayRecord, issue_of_awaiting hp, hr]
  · simp [exec_dcs, State.dcs, issue_of_awaiting hp, hr]

/-- The sequencer's turn runs the micro-op at UPC (R150). -/
theorem step_of_fetch {s : State} {w : UopWord} {i : Instr} (hhost : s.nextInput.host = none) (hl : s.live = true)
    (hb : s.busy = true) (hw : s.fetch = some w) (hi : decodeUop w = .ok i) : step s = afterTurn (exec i s.arrive) := by
  have hw' : s.arrive.fetch = some w := hw
  simp [step, takeTurn, hhost, hl, hb, runMicroOp, hw', hi]

/-- Settles O42: the micro-op issues nothing again, so only the arrival of the input is left of the step. -/
theorem unansweredRequestHangs : Obligations.UnansweredRequestHangs := by
  intro s w i ⟨hl, hb, req, ts, hp⟩ hhost hresp hw hi hkind
  have hreq : s.arrive.Requests i := by
    rcases hkind with hrail | hreplay | ⟨x, rfl | rfl | rfl | rfl⟩
    · exact .inl hrail
    · exact .inr (.inl hreplay)
    · exact .inr (.inr ⟨.enterSleep, x, rfl⟩)
    · exact .inr (.inr ⟨.exitSleep, x, rfl⟩)
    · exact .inr (.inr ⟨.setDisplayOff, x, rfl⟩)
    · exact .inr (.inr ⟨.setDisplayOn, x, rfl⟩)
  have hstep : step s = .next s.arrive := by
    rw [step_of_fetch hhost hl hb hw hi, exec_unanswered hreq hp hresp]
    exact congrArg _ (settleDetach_busy s.arrive hb)
  refine ⟨s.arrive, hstep, ?_, ?_, rfl, req, ts, hp, ?_⟩
  · rw [State.arrive, hresp]
  · exact fun ⟨_, hidle, _⟩ => absurd (hb.symm.trans hidle) (by decide)
  · simp [State.observe, hp, Phase.outstanding]

/-! ## The configuration -/

theorem settleDetach_cfg_registry (s : State) : s.settleDetach.cfg = s.cfg ∧ s.settleDetach.registry = s.registry := by
  rcases settleDetach_cases s with heq | ⟨-, -, -, heq⟩ | ⟨-, -, -, heq⟩ <;> rw [heq] <;> exact ⟨rfl, rfl⟩

/-- The host's turn leaves the registry, and the block has its own PanelConfig or, after an attach, a registered one. -/
theorem HostEffect.cfg_registry {s t : State} (he : HostEffect s t) :
    t.registry = s.registry ∧ (t.cfg = s.cfg ∨ ∃ k, (k, t.cfg) ∈ s.registry) := by
  cases he with
  | command hl i _ hi ht =>
    rcases hostInstr_cases i s t hi hl ht with
      ⟨-, rfl⟩ | ⟨-, op, -, rfl⟩ | ⟨-, op, -, -, rfl⟩ | ⟨-, -, rfl⟩ | ⟨-, rfl | rfl⟩ <;> exact ⟨rfl, .inl rfl⟩
  | create _ c hc => exact ⟨rfl, .inr hc⟩
  | dead | read | readUnmapped | violation | bank | notFound | detach => exact ⟨rfl, .inl rfl⟩

/-- `Configured` speaks of the configuration and the registry only. -/
theorem State.Configured.congr {s t : State} (h : s.Configured) (hcfg : t.cfg = s.cfg) (hreg : t.registry = s.registry) :
    t.Configured := by
  unfold State.Configured
  rw [hcfg, hreg]
  exact h

theorem HostEffect.configured {s t : State} (he : HostEffect s t) (h : s.Configured) : t.Configured := by
  obtain ⟨hreg, hcfg | ⟨k, hk⟩⟩ := he.cfg_registry
  · exact h.congr hcfg hreg
  · obtain ⟨-, hall⟩ := h
    exact ⟨hall _ hk, hreg ▸ hall⟩

/-- Settles O49: only an attach changes the configuration, to one of the registry, which nothing changes. -/
theorem configuredKept : Obligations.ConfiguredKept := fun _ _ =>
  step_keeps (P := State.Configured) (fun _ h => h) (fun _ _ he h => he.configured h)
    (fun _ _ _ _ he h => h.congr he.framed.cfg he.framed.registry)
    (fun s h => h.congr (settleDetach_cfg_registry s).1 (settleDetach_cfg_registry s).2)

/-! ## The invariants at reset -/

theorem reset_configured : State.reset.Configured := by
  refine ⟨Config.panel_wf, fun e he => ?_⟩
  rw [List.mem_singleton.mp he]
  exact Config.panel_wf

/-- At reset the block is idle and Unpowered, so nothing runs and nothing is asked of the panel (R39, R238). -/
theorem reset_sequenced : State.reset.Sequenced := by
  constructor <;> simp [State.reset, State.Rest]

theorem reset_clocked : State.reset.Clocked :=
  Recorded.clocked_of_idle (s := State.reset) ⟨trivial, le_rfl, le_rfl⟩ rfl

theorem reset_gated : State.reset.Gated := by
  constructor <;> simp [State.reset, GatesKept]

theorem reset_settled : State.reset.Settled := by
  constructor <;> simp [State.reset, TrafficSettled]

theorem reset_replayed : State.reset.Replayed := by
  constructor <;> simp [State.reset]

theorem reset_paced : State.reset.Paced := by
  constructor <;> simp [State.reset, DurationsKept]

/-- Settles O12: the trace is empty and no operation runs. -/
theorem invariantsAtReset : Obligations.InvariantsAtReset :=
  ⟨reset_configured, reset_sequenced, reset_clocked, reset_gated, reset_settled, reset_replayed, reset_paced⟩

end Sys2Proof.Machine
end

section
/-! PROOFS. The host's side of 10_state.md: register numbers and command words, everything a command and a host access can do,
and the turns of a step. -/

namespace Sys2Proof.Machine

/-! ## Register numbers and command words -/

/-- The number of an MO or DI register (R23). -/
def BankReg.num : BankReg → Nat
  | .moClock => 0x10
  | .moHdisplay => 0x11
  | .moHfp => 0x12
  | .moHsync => 0x13
  | .moHbp => 0x14
  | .moHtotal => 0x15
  | .moVdisplay => 0x16
  | .moVfp => 0x17
  | .moVsync => 0x18
  | .moVbp => 0x19
  | .moVtotal => 0x1A
  | .moWidthMm => 0x1B
  | .moHeightMm => 0x1C
  | .moType => 0x1D
  | .diWidthMm => 0x1E
  | .diHeightMm => 0x1F

@[simp] theorem ofNum_num (r : BankReg) : HostReg.ofNum r.num = some (.bank r) := by
  cases r <;> rfl

theorem ofNum_eq_bank {n : Nat} {r : BankReg} : HostReg.ofNum n = some (.bank r) ↔ n = r.num := by
  refine ⟨fun h => ?_, fun h => h ▸ ofNum_num r⟩
  unfold HostReg.ofNum at h
  split at h <;> cases h
  all_goals rfl

theorem exists_bank_of_range {n : Nat} (hlo : 0x10 ≤ n) (hhi : n ≤ 0x1F) : ∃ r, HostReg.ofNum n = some (.bank r) := by
  interval_cases n <;> exact ⟨_, rfl⟩

theorem ofNum_eq_none {n : Nat} : HostReg.ofNum n = none ↔ unmapped n := by
  unfold HostReg.ofNum unmapped
  split <;> simp_all
  omega

/-- A host word spells an operation or is one of R93's. -/
theorem decodeHost_error {v : HostWord} : (∃ e, decodeHost v = .error e) ↔ spellsNoOp v := by
  have hok : ∀ x : Except DecodeError Instr, (∃ e, x = .error e) ↔ x.isOk = false := by
    rintro (e | i) <;> simp [Except.isOk, Except.toBool]
  rw [hok]
  unfold decodeHost spellsNoOp
  generalize v.extractLsb' 0 3 = op
  split
  · rename_i h
    rw [h]
    revert op
    decide
  · rename_i h
    exact ⟨fun _ => .inr h, fun _ => rfl⟩

theorem decodeHost_instr {v : HostWord} {i : Instr} (h : decodeHost v = .ok i) : ∃ op : HostOp, i = op.instr := by
  rcases decodeHost_cases v i h with rfl | rfl | rfl | rfl | rfl
  · exact ⟨.prepare, rfl⟩
  · exact ⟨.enable, rfl⟩
  · exact ⟨.disable, rfl⟩
  · exact ⟨.unprepare, rfl⟩
  · exact ⟨.getModes, rfl⟩

/-! ## Everything a command can do -/

/-- What an operation does on an idle block whose STATE meets its precondition (R115, R120, R125, R130, R195). -/
def HostOp.perform : HostOp → State → State
  | .prepare, s => s.start .prepare
  | .enable, s => s.start .enable
  | .disable, s => s.start .disable
  | .unprepare, s =>
    if s.lifeState = .unpowered ∧ s.cfg.unprepareWhenUnpowered = .noop then s.unprepareNoop else s.start .unprepare
  | .getModes, s =>
    match s.draw.alloc with
    | .ok => s.modesDelivered
    | .err => s.modesFailed

theorem exec_instr (op : HostOp) (s : State) : exec op.instr s = s.accept op op.perform := by
  cases op <;> rfl

/-- What a command did on a live, idle block (R110, R131, R195). -/
inductive CommandEffect (s : State) : HostOp → State → Prop where
  /-- the precondition fails (R111) -/
  | refused (op : HostOp) (hp : precondition op s.lifeState = false) : CommandEffect s op (s.refuseCommand op)
  /-- the micro-program is entered (R112) -/
  | started (op : HostOp) (hp : precondition op s.lifeState = true) (hop : op ≠ .getModes) :
      CommandEffect s op (s.start op)
  /-- UNPREPARE has nothing to do (R131) -/
  | noop : CommandEffect s .unprepare s.unprepareNoop
  /-- the modes are delivered (R195) -/
  | delivered : CommandEffect s .getModes s.modesDelivered
  /-- the modes' copy is not allocated (R196) -/
  | unallocated : CommandEffect s .getModes s.modesFailed

theorem performEffect {s : State} (op : HostOp) (hp : precondition op s.lifeState = true) :
    CommandEffect s op (op.perform s) := by
  cases op with
  | prepare => exact .started .prepare hp (by decide)
  | enable => exact .started .enable hp (by decide)
  | disable => exact .started .disable hp (by decide)
  | unprepare =>
    simp only [HostOp.perform]
    split
    · exact .noop
    · exact .started .unprepare hp (by decide)
  | getModes =>
    simp only [HostOp.perform]
    split
    · exact .delivered
    · exact .unallocated

theorem exec_instr_busy {s : State} (op : HostOp) (hl : s.live = true) (hb : s.busy = true) :
    exec op.instr s = .next s.violate := by
  simp [exec_instr, State.accept, hl, hb]

/-- Everything a command can do on a live, idle block. -/
theorem command_cases {s t : State} {op : HostOp} (hl : s.live = true) (hb : s.busy = false)
    (h : exec op.instr s = .next t) : CommandEffect s op t := by
  rw [exec_instr] at h
  rcases accept_cases s t op _ h with ⟨hd, -⟩ | ⟨-, hb', -⟩ | ⟨-, -, hp, rfl⟩ | ⟨-, -, hp, rfl⟩
  · exact absurd (hl.symm.trans hd) (by decide)
  · exact absurd (hb.symm.trans hb') (by decide)
  · exact .refused op hp
  · exact performEffect op hp

/-! ## Everything a host access can do -/

/-- What a host access that gives a next state did, with the access: it refines `HostEffect`. -/
inductive AccessEffect (s : State) : HostAccess → State → Prop where
  /-- a register was read (R22) -/
  | read (hl : s.live = true) (n : Nat) (r : HostReg) (hr : HostReg.ofNum n = some r) :
      AccessEffect s (.read n) (s.reading n r)
  /-- an unmapped register was read (R38) -/
  | readUnmapped (hl : s.live = true) (n : Nat) (hn : unmapped n) :
      AccessEffect s (.read n) { s.violate with readData := some (n, 0#32) }
  /-- a command was issued to an idle block (R110) -/
  | command (hl : s.live = true) (hb : s.busy = false) (v : HostWord) (op : HostOp) (hv : decodeHost v = .ok op.instr)
      (t : State) (he : CommandEffect s op t) : AccessEffect s (.write 0x00 v) t
  /-- an MO or DI register was written (R35) -/
  | bank (hl : s.live = true) (r : BankReg) (v : HostWord) :
      AccessEffect s (.write r.num v) { s with bank := s.bank.set v r }
  /-- a write violated the protocol (R223 a to e) -/
  | violates (hl : s.live = true) (n : Nat) (v : HostWord) (h : s.Violates (.write n v)) :
      AccessEffect s (.write n v) s.violate
  /-- attach found no PanelConfig (R250) -/
  | notFound (hl : s.live = false) (key : CompatKey) (hk : lookup s.registry key = none) :
      AccessEffect s (.attach key) { s with attachResult := .notFound }
  /-- attach created the block anew (R250) -/
  | create (hl : s.live = false) (key : CompatKey) (c : PanelConfig) (hk : lookup s.registry key = some c) :
      AccessEffect s (.attach key) (s.create c)
  /-- detach was asked for (R252) -/
  | detach (hl : s.live = true) (hd : s.detaching = false) : AccessEffect s .detach { s with detaching := true }
  /-- nothing: no block is live (R223 f) -/
  | dead (hl : s.live = false) (a : HostAccess) (ha : ∀ key, a ≠ .attach key) : AccessEffect s a s

section
variable {s t : State}

theorem readEffect {n : Nat} (hl : s.live = true) (h : hostRead n s = .next t) : AccessEffect s (.read n) t := by
  unfold hostRead at h
  split at h
  · cases h
    exact .readUnmapped hl n (ofNum_eq_none.mp ‹_›)
  · cases h
    exact .read hl n _ ‹_›

theorem hostWrite_bank (r : BankReg) (v : HostWord) (s : State) :
    hostWrite r.num v s = .next { s with bank := s.bank.set v r } := by
  simp [hostWrite]

/-- A write that violates the protocol sets PROTO_FAULT and has no other effect (R223). -/
theorem hostWrite_violation {n : Nat} {v : HostWord} (hl : s.live = true) (h : s.Violates (.write n v)) :
    hostWrite n v s = .next s.violate := by
  rcases h with hn | ⟨hlo, hhi⟩ | ⟨rfl, hv⟩
  · simp [hostWrite, ofNum_eq_none.mpr hn]
  · interval_cases n <;> rfl
  · change (match decodeHost v with | .ok i => exec i s | .error _ => .next s.violate) = .next s.violate
    split
    · rename_i i hi
      obtain ⟨op, rfl⟩ := decodeHost_instr hi
      rcases hv with hb | hv
      · exact exec_instr_busy op hl hb
      · obtain ⟨e, he⟩ := decodeHost_error.mpr hv
        cases hi.symm.trans he
    · rfl

theorem writeEffect {n : Nat} {v : HostWord} (hl : s.live = true) (h : hostWrite n v s = .next t) :
    AccessEffect s (.write n v) t := by
  by_cases hv : s.Violates (.write n v)
  · rw [hostWrite_violation hl hv] at h
    cases h
    exact .violates hl n v hv
  · simp only [State.Violates, not_or, not_and] at hv
    obtain ⟨hmapped, hro, hcmd⟩ := hv
    rcases Nat.eq_zero_or_pos n with rfl | hpos
    · obtain ⟨hb, hspell⟩ := hcmd rfl
      cases hd : decodeHost v with
      | error e => exact absurd (decodeHost_error.mp ⟨e, hd⟩) (by simpa using hspell)
      | ok i =>
        obtain ⟨op, rfl⟩ := decodeHost_instr hd
        have he : exec op.instr s = .next t := by simpa [hostWrite, HostReg.ofNum, hd] using h
        exact .command hl (by simpa using hb) v op hd t (command_cases hl (by simpa using hb) he)
    · obtain ⟨r, hr⟩ := exists_bank_of_range (n := n) (by omega) (by omega)
      obtain rfl := ofNum_eq_bank.mp hr
      rw [hostWrite_bank] at h
      cases h
      exact .bank hl r v

theorem hostAccess_read (hl : s.live = true) (n : Nat) : hostAccess (.read n) s = hostRead n s := if_pos hl

theorem hostAccess_write (hl : s.live = true) (n : Nat) (v : HostWord) : hostAccess (.write n v) s = hostWrite n v s :=
  if_pos hl

/-- With no live block an access other than an attach does nothing (R223 f). -/
theorem hostAccess_dead (hl : s.live = false) {a : HostAccess} (ha : ∀ key, a ≠ .attach key) :
    hostAccess a s = .next s := by
  have hn : ¬ s.live = true := by simp [hl]
  cases a with
  | read | write | detach => exact if_neg hn
  | attach key => exact absurd rfl (ha key)

theorem hostAccess_attach_notFound (hl : s.live = false) {key : CompatKey} (hk : lookup s.registry key = none) :
    hostAccess (.attach key) s = .next { s with attachResult := .notFound } := by
  simp only [hostAccess, attach]
  rw [if_neg (by simp [hl]), hk]

theorem hostAccess_attach_found (hl : s.live = false) {key : CompatKey} {c : PanelConfig}
    (hk : lookup s.registry key = some c) : hostAccess (.attach key) s = .next (s.create c) := by
  simp only [hostAccess, attach]
  rw [if_neg (by simp [hl]), hk]

theorem hostAccess_attach_live (hl : s.live = true) (key : CompatKey) :
    hostAccess (.attach key) s = .refused .attachWhileLive := if_pos hl

theorem hostAccess_detach (hl : s.live = true) (hd : s.detaching = false) :
    hostAccess .detach s = .next { s with detaching := true } := by
  simp only [hostAccess, detach]
  rw [if_pos hl, if_neg (by simp [hd])]

theorem hostAccess_detach_again (hl : s.live = true) (hd : s.detaching = true) :
    hostAccess .detach s = .refused .detachWhileDetaching := by
  simp only [hostAccess, detach]
  rw [if_pos hl, if_pos hd]

/-- Everything a host access can do. -/
theorem access_cases {a : HostAccess} (h : hostAccess a s = .next t) : AccessEffect s a t := by
  cases hl : s.live with
  | true =>
    cases a with
    | read n => exact readEffect hl (hostAccess_read hl n ▸ h)
    | write n v => exact writeEffect hl (hostAccess_write hl n v ▸ h)
    | attach key => rw [hostAccess_attach_live hl] at h; cases h
    | detach =>
      cases hd : s.detaching with
      | true => rw [hostAccess_detach_again hl hd] at h; cases h
      | false => rw [hostAccess_detach hl hd] at h; cases h; exact .detach hl hd
  | false =>
    cases a with
    | attach key =>
      cases hk : lookup s.registry key with
      | none => rw [hostAccess_attach_notFound hl hk] at h; cases h; exact .notFound hl key hk
      | some c => rw [hostAccess_attach_found hl hk] at h; cases h; exact .create hl key c hk
    | read | write | detach =>
      rw [hostAccess_dead hl (by simp)] at h
      cases h
      exact .dead hl _ (by simp)

/-! ## The turns of a step -/

/-- The host's turn is its access, then what a waiting detach does (R22, R250, R252). -/
theorem step_of_access {a : HostAccess} (ha : s.nextInput.host = some a) :
    step s = afterTurn (hostAccess a s.arrive) := by
  simp [step, takeTurn, ha]

/-- With no operation running the sequencer does nothing (R150, R238). -/
theorem step_of_idle (hhost : s.nextInput.host = none) (hidle : ¬ (s.live = true ∧ s.busy = true)) :
    step s = .next s.arrive := by
  unfold step takeTurn
  rw [hhost]
  exact if_neg hidle

/-- What a step that gives a next state did: the turn it took and the state before a waiting detach went on. -/
inductive StepEffect (s : State) : State → Prop where
  /-- no operation runs (R238) -/
  | idle (hhost : s.nextInput.host = none) (hidle : ¬ (s.live = true ∧ s.busy = true)) : StepEffect s s.arrive
  /-- the host acted (R22, R250, R252) -/
  | host (a : HostAccess) (u : State) (ha : s.nextInput.host = some a) (he : AccessEffect s.arrive a u) :
      StepEffect s u.settleDetach
  /-- the micro-op at UPC ran (R150) -/
  | micro (w : UopWord) (i : Instr) (u : State) (hhost : s.nextInput.host = none) (hl : s.live = true)
      (hb : s.busy = true) (hw : s.fetch = some w) (hi : decodeUop w = .ok i) (he : exec i s.arrive = .next u) :
      StepEffect s u.settleDetach

theorem step_effect (h : step s = .next t) : StepEffect s t := by
  cases hhost : s.nextInput.host with
  | some a =>
    rw [step_of_access hhost] at h
    obtain ⟨u, hu, rfl⟩ := afterTurn_cases _ _ h
    exact .host a u hhost (access_cases hu)
  | none =>
    rcases step_cases s t h with ⟨-, hidle, rfl⟩ | ⟨a, u, ha, -, -⟩ | ⟨w, i, u, -, hl, hb, hw, hi, hu, rfl⟩
    · exact .idle hhost hidle
    · cases hhost.symm.trans ha
    · exact .micro w i u hhost hl hb hw hi hu

end
end Sys2Proof.Machine
end

section
/-! PROOFS. Where the micro-program stands (R26, R90, R238): each micro-op takes its program to the next place of `State.At`,
and so every step keeps `State.Sequenced`. -/

namespace Sys2Proof.Machine

/-- After a micro-op: the program of `op` stands at a position of R90, or the operation is over and the block rests. -/
def State.StandsOrRests (t : State) (op : HostOp) : Prop :=
  (t.busy = true ∧ t.At op) ∨ (t.busy = false ∧ t.Rest)

theorem warnSet_low {warn : BitVec 4} {widx : BitVec 2} (hw : warn &&& 0b1100#4 = 0#4) (hi : widx = 0#2 ∨ widx = 1#2) :
    warnSet warn widx &&& 0b1100#4 = 0#4 := by
  revert warn widx
  decide

theorem warnSet_high {warn : BitVec 4} {widx : BitVec 2} (hw : warn &&& 0b0011#4 = 0#4) (hi : widx = 2#2 ∨ widx = 3#2) :
    warnSet warn widx &&& 0b0011#4 = 0#4 := by
  revert warn widx
  decide

section
variable {s t : State} {i : Instr}

/-- PREPARE's program from one place to the next (R115, R116). -/
theorem State.At.prepare_next (h : s.At .prepare) (hb : s.busy = true) (hi : programInstr .prepare s.upc = some i)
    (he : exec i s = .next t) : t.StandsOrRests .prepare := by
  obtain ⟨-, hpend, hwarn, hlife, hrail, hlow, hhigh⟩ := h
  unfold State.StandsOrRests
  rcases program_prepare _ _ hi with ⟨hk, rfl⟩ | ⟨hk, rfl⟩ | ⟨hk, rfl⟩ | ⟨hk, rfl⟩ | ⟨hk, rfl⟩ | ⟨hk, rfl⟩ | ⟨hk, rfl⟩ <;>
    simp only [hk] at hlife hrail hlow hhigh
  · rcases rail_cases s t _ _ he with ⟨-, rfl⟩ | ⟨-, rfl⟩ | ⟨-, -, rfl⟩ | ⟨-, hf, -⟩
    · simp_all [State.At, RailReq.ofEn]
    · simp_all [State.At, RailReq.ofEn]
    · simp_all [State.Rest]
    · cases hf
  · cases he
    simp_all [State.At]
  · rcases wait_cases s t _ he with ⟨-, rfl⟩ | ⟨-, rfl⟩ <;> simp_all [State.At]
  · cases he
    simp_all [State.At]
  · rcases wait_cases s t _ he with ⟨-, rfl⟩ | ⟨-, rfl⟩ <;> simp_all [State.At]
  · cases he
    simp_all [State.At]
  · cases he
    simp_all [State.Rest, State.Powered]

/-- ENABLE's program from one place to the next: its DCS commands set only the low bits of WARN (R120, R121). -/
theorem State.At.enable_next (h : s.At .enable) (hb : s.busy = true) (hi : programInstr .enable s.upc = some i)
    (he : exec i s = .next t) : t.StandsOrRests .enable := by
  obtain ⟨-, hpend, ⟨hrail, hreset⟩, hwarn0, hwarn, hlife⟩ := h
  have hexit := warnSet_low hwarn (widx := 0#2) (.inl rfl)
  have hdisplay := warnSet_low hwarn (widx := 1#2) (.inr rfl)
  unfold State.StandsOrRests
  rcases program_enable _ _ hi with
    ⟨hk, rfl⟩ | ⟨hk, rfl⟩ | ⟨hk, rfl⟩ | ⟨hk, rfl⟩ | ⟨hk, rfl⟩ | ⟨hk, rfl⟩ | ⟨hk, rfl⟩ | ⟨hk, rfl⟩ <;>
    simp only [hk] at hlife hwarn0
  · rcases wait_cases s t _ he with ⟨-, rfl⟩ | ⟨-, rfl⟩ <;> simp_all [State.At, State.Powered]
  · rcases replay_cases s t he with ⟨-, rfl⟩ | ⟨-, -, rfl⟩ | ⟨-, -, rfl⟩
    · simp_all [State.At, State.Powered]
    · rcases replayRecord_cases s _ _ with ⟨-, heq⟩ | ⟨-, heq⟩ | ⟨-, heq⟩ <;> rw [heq]
      · simp_all [State.At, State.Powered]
      · simp_all [State.At, State.Powered]
      · simp_all [State.Rest, State.Powered]
    · simp_all [State.At, State.Powered]
  · cases he
    simp_all [State.At, State.Powered]
  · rcases wait_cases s t _ he with ⟨-, rfl⟩ | ⟨-, rfl⟩ <;> simp_all [State.At, State.Powered]
  · cases he
    rcases dcs_cases s .exitSleep 0#2 with ⟨-, heq⟩ | ⟨-, heq⟩ | ⟨-, heq⟩ <;> rw [heq] <;> simp_all [State.At, State.Powered]
  · cases he
    rcases dcs_cases s .setDisplayOn 1#2 with ⟨-, heq⟩ | ⟨-, heq⟩ | ⟨-, heq⟩ <;> rw [heq] <;>
      simp_all [State.At, State.Powered]
  · cases he
    simp_all [State.At, State.Powered]
  · cases he
    simp_all [State.Rest, State.Powered]

/-- DISABLE's program from one place to the next: its DCS commands set only the high bits of WARN (R125, R126). -/
theorem State.At.disable_next (h : s.At .disable) (hb : s.busy = true) (hi : programInstr .disable s.upc = some i)
    (he : exec i s = .next t) : t.StandsOrRests .disable := by
  obtain ⟨-, hpend, ⟨hrail, hreset⟩, hwarn, hlife⟩ := h
  have hdisplay := warnSet_high hwarn (widx := 2#2) (.inl rfl)
  have hsleep := warnSet_high hwarn (widx := 3#2) (.inr rfl)
  unfold State.StandsOrRests
  rcases program_disable _ _ hi with ⟨hk, rfl⟩ | ⟨hk, rfl⟩ | ⟨hk, rfl⟩ | ⟨hk, rfl⟩ <;> simp only [hk] at hlife
  · cases he
    rcases dcs_cases s .setDisplayOff 2#2 with ⟨-, heq⟩ | ⟨-, heq⟩ | ⟨-, heq⟩ <;> rw [heq] <;>
      simp_all [State.At, State.Powered]
  · cases he
    rcases dcs_cases s .enterSleep 3#2 with ⟨-, heq⟩ | ⟨-, heq⟩ | ⟨-, heq⟩ <;> rw [heq] <;>
      simp_all [State.At, State.Powered]
  · cases he
    simp_all [State.At, State.Powered]
  · cases he
    simp_all [State.Rest, State.Powered]

/-- UNPREPARE's program from one place to the next: a rail that fails leaves PEND PowerError and RAIL_REQ Off (R130, R152). -/
theorem State.At.unprepare_next (h : s.At .unprepare) (hb : s.busy = true) (hi : programInstr .unprepare s.upc = some i)
    (he : exec i s = .next t) : t.StandsOrRests .unprepare := by
  obtain ⟨-, hpend, hlife, hlow, hrail, hlast⟩ := h
  unfold State.StandsOrRests
  rcases program_unprepare _ _ hi with ⟨hk, rfl⟩ | ⟨hk, rfl⟩ | ⟨hk, rfl⟩ | ⟨hk, rfl⟩ | ⟨hk, rfl⟩ <;>
    simp only [hk] at hpend hlow hrail hlast
  · cases he
    simp_all [State.At]
  · rcases wait_cases s t _ he with ⟨-, rfl⟩ | ⟨-, rfl⟩ <;> simp_all [State.At]
  · rcases rail_cases s t _ _ he with ⟨-, rfl⟩ | ⟨-, rfl⟩ | ⟨-, hf, -⟩ | ⟨-, -, rfl⟩
    · simp_all [State.At, RailReq.ofEn]
    · simp_all [State.At, RailReq.ofEn]
    · cases hf
    · simp_all [State.At, RailReq.ofEn]
  · cases he
    simp_all [State.At]
  · cases he
    simp_all [State.Rest]

/-- The micro-op at UPC takes a program to its next place, or ends it and leaves the block at rest (R90, R171, R172). -/
theorem State.At.next {op : HostOp} (h : s.At op) (hb : s.busy = true) (hi : programInstr op s.upc = some i)
    (he : exec i s = .next t) : t.StandsOrRests op := by
  cases op with
  | prepare => exact h.prepare_next hb hi he
  | enable => exact h.enable_next hb hi he
  | disable => exact h.disable_next hb hi he
  | unprepare => exact h.unprepare_next hb hi he
  | getModes => exact h.elim

/-- A program that is entered stands at its first micro-op (R110, R112). -/
theorem State.Rest.at_start (h : s.Rest) {op : HostOp} (hp : precondition op s.lifeState = true) (hop : op ≠ .getModes) :
    (s.start op).At op := by
  obtain ⟨hconf, hpow⟩ := h
  cases op with
  | prepare => simp_all [State.At, State.requesting, precondition]
  | enable => simp_all [State.At, State.Powered, precondition]
  | disable => simp_all [State.At, State.Powered, precondition]
  | unprepare => simp_all [State.At]
  | getModes => exact absurd rfl hop

theorem State.Rest.at_enter_unprepare (h : s.Rest) : (s.enter .unprepare).At .unprepare := by
  simp_all [State.At, State.Rest]

/-! ## The invariant of the sequencer -/

/-- A WAIT that has begun has T0 at the completion of the micro-op before it (R156). -/
def State.WaitsFromLastDone (s : State) (op : HostOp) : Prop :=
  waitsAt op s.upc = true → s.phase = .begun → s.t0 = s.lastDone

/-- `State.Sequenced` before a waiting detach has gone on: it may find the block idle (R252). -/
structure State.InTurn (s : State) : Prop where
  rom : s.urom = MicroRom.fixed
  running : s.live = true → s.busy = true → ∃ op, s.curOp = some op ∧ s.At op ∧ s.WaitsFromLastDone op
  resting : s.live = true → s.busy = false → s.Rest
  detach : s.detaching = true → s.live = true

theorem State.Sequenced.inTurn (h : s.Sequenced) : s.InTurn where
  rom := h.rom
  running hl hb := by
    obtain ⟨op, hop, hat⟩ := h.running hl hb
    exact ⟨op, hop, hat, h.waiting hl hb op hop⟩
  resting := h.resting
  detach hd := (h.detach hd).1

/-- Once no idle block has a detach waiting, the invariant holds. -/
theorem State.InTurn.sequenced (h : s.InTurn) (hd : s.detaching = true → s.busy = true) : s.Sequenced where
  rom := h.rom
  running hl hb := by
    obtain ⟨op, hop, hat, -⟩ := h.running hl hb
    exact ⟨op, hop, hat⟩
  waiting hl hb op hop := by
    obtain ⟨op', hop', -, hwait⟩ := h.running hl hb
    obtain rfl := Option.some.inj (hop.symm.trans hop')
    exact hwait
  resting := h.resting
  detach hd' := ⟨h.detach hd', hd hd'⟩

theorem settleDetach_of_not (h : ¬ (s.detaching = true ∧ s.busy = false)) : s.settleDetach = s :=
  if_neg (by simpa using h)

theorem settleDetach_unpowered (hd : s.detaching = true) (hb : s.busy = false) (hlife : s.lifeState = .unpowered) :
    s.settleDetach = s.destroy := by
  simp [State.settleDetach, hd, hb, hlife]

theorem settleDetach_powered (hd : s.detaching = true) (hb : s.busy = false) (hlife : s.lifeState ≠ .unpowered) :
    s.settleDetach = s.enter .unprepare := by
  simp [State.settleDetach, hd, hb, hlife]

theorem State.InTurn.settleDetach (h : s.InTurn) : s.settleDetach.Sequenced := by
  by_cases hd : s.detaching = true ∧ s.busy = false
  · obtain ⟨hd, hb⟩ := hd
    have hrest : s.Rest := h.resting (h.detach hd) hb
    by_cases hlife : s.lifeState = .unpowered
    · rw [settleDetach_unpowered hd hb hlife]
      exact ⟨h.rom, by simp, by simp, by simp, by simp⟩
    · rw [settleDetach_powered hd hb hlife]
      refine State.InTurn.sequenced ⟨h.rom, fun _ _ => ?_, by simp, h.detach⟩ (fun _ => rfl)
      exact ⟨.unprepare, rfl, hrest.at_enter_unprepare, by simp [State.WaitsFromLastDone]⟩
  · rw [settleDetach_of_not hd]
    exact h.sequenced (by simpa using hd)

/-- The arrival of an input moves no register that the invariant speaks of. -/
theorem State.Sequenced.arrive (h : s.Sequenced) : s.arrive.Sequenced :=
  ⟨h.rom, h.running, h.waiting, h.resting, h.detach⟩

theorem State.InTurn.command {op : HostOp} (h : s.InTurn) (hl : s.live = true) (hb : s.busy = false)
    (he : CommandEffect s op t) : t.InTurn := by
  have hrest : s.Rest := h.resting hl hb
  cases he with
  | started _ hp hop =>
    refine ⟨h.rom, fun _ _ => ⟨op, rfl, hrest.at_start hp hop, ?_⟩, by simp, h.detach⟩
    simp [State.WaitsFromLastDone]
  | refused | noop | delivered | unallocated =>
    exact ⟨h.rom, fun _ hb' => absurd (hb'.symm.trans hb) (by decide), fun _ _ => hrest, h.detach⟩

theorem State.InTurn.access {a : HostAccess} (h : s.InTurn) (he : AccessEffect s a t) : t.InTurn := by
  cases he with
  | command hl hb _ _ _ _ he => exact h.command hl hb he
  | create => exact ⟨h.rom, by simp [State.reset], by simp [State.reset, State.Rest], by simp [State.reset]⟩
  | detach hl => exact ⟨h.rom, h.running, h.resting, fun _ => hl⟩
  | dead => exact h
  | read | readUnmapped | bank | violates | notFound => exact ⟨h.rom, h.running, h.resting, h.detach⟩

/-- A micro-op stays at its position or completes (R150). -/
theorem MicroEffect.upc_cases (he : MicroEffect s i t) : t.upc = s.upc ∨ (t.upc = s.upc + 1 ∧ t.phase = .fresh) := by
  cases he <;> simp

theorem wait_of_waitsAt {op : HostOp} {k : Nat} (h : waitsAt op k = true) : ∃ ms, programInstr op k = some (.wait ms) := by
  cases op <;> simp [waitsAt] at h
  case prepare => rcases h with rfl | rfl <;> exact ⟨_, rfl⟩
  case enable => rcases h with rfl | rfl <;> exact ⟨_, rfl⟩
  case unprepare => exact ⟨_, by rw [h]; rfl⟩

/-- Only a WAIT is left begun at a WAIT's position, and it has taken T0 from the micro-op before it (R156). -/
theorem State.WaitsFromLastDone.next {op : HostOp} (h : s.WaitsFromLastDone op) (hi : programInstr op s.upc = some i)
    (hh : i.isHost = false) (he : exec i s = .next t) : t.WaitsFromLastDone op := by
  intro hw hp
  rcases (microOp_cases hh he).upc_cases with hupc | ⟨-, hf⟩
  · rw [hupc] at hw
    obtain ⟨ms, hms⟩ := wait_of_waitsAt hw
    obtain rfl := Option.some.inj (hi.symm.trans hms)
    rcases wait_cases s t ms he with ⟨-, rfl⟩ | ⟨-, rfl⟩
    · by_cases hb : s.phase = .begun
      · simpa [hb] using h hw hb
      · simp [hb]
    · simp at hp
  · simp [hf] at hp

/-- A micro-op of a fixed program keeps the invariant. -/
theorem State.Sequenced.microOp {w : UopWord} (h : s.Sequenced) (hl : s.live = true) (hb : s.busy = true)
    (hw : s.fetch = some w) (hi : decodeUop w = .ok i) (he : exec i s = .next t) : t.InTurn := by
  have hh := decodeUop_isHost hi
  have hf : s.Framed t := (microOp_cases hh he).framed
  obtain ⟨op, hop, hat, hwait⟩ := h.inTurn.running hl hb
  have hk := fixed_fetch s op w i h.rom hop hw hi
  refine ⟨hf.urom.trans h.rom, fun _ hb' => ?_, fun _ hb' => ?_, fun hd => ?_⟩
  · rcases hat.next hb hk he with ⟨-, hat'⟩ | ⟨hidle, -⟩
    · exact ⟨op, hf.curOp.trans hop, hat', hwait.next hk hh he⟩
    · exact absurd (hb'.symm.trans hidle) (by decide)
  · rcases hat.next hb hk he with ⟨hbusy, -⟩ | ⟨-, hrest⟩
    · exact absurd (hbusy.symm.trans hb') (by decide)
    · exact hrest
  · exact hf.live.trans hl

end

/-- Settles O50: the turn keeps the invariant but for a detach that finds the block idle, which then goes on. -/
theorem sequencedKept : Obligations.SequencedKept := by
  intro s t h hstep
  cases step_effect hstep with
  | idle => exact h.arrive
  | host a u _ he => exact (h.arrive.inTurn.access he).settleDetach
  | micro w i u _ hl hb hw hi he => exact (h.arrive.microOp hl hb hw hi he).settleDetach

end Sys2Proof.Machine
end

section
/-! PROOFS. The replay's count and order (R31, R63, R161): every step keeps `State.Replayed`. -/

namespace Sys2Proof.Machine

section
variable {s t : State} {i : Instr} {op : HostOp}

/-- What the sequencer's turn runs is the micro-op of its place in the fixed program (R90, R150). -/
theorem State.Sequenced.programInstr_of_fetch {w : UopWord} (h : s.Sequenced) (hl : s.live = true) (hb : s.busy = true)
    (hw : s.fetch = some w) (hi : decodeUop w = .ok i) :
    ∃ op, s.curOp = some op ∧ s.At op ∧ programInstr op s.upc = some i := by
  obtain ⟨op, hop, hat⟩ := h.running hl hb
  exact ⟨op, hop, hat, fixed_fetch s op w i h.rom hop hw hi⟩

/-- STATE is written by SETST only (R170). -/
theorem MicroEffect.lifeState_cases (he : MicroEffect s i t) :
    t.lifeState = s.lifeState ∨ ∃ c, i = .setst c ∧ LifeState.ofCode c = some t.lifeState := by
  cases he with
  | stateSet c st hc => exact .inr ⟨c, rfl, hc⟩
  | _ => exact .inl rfl

/-- REC_IDX is written by REPLAY only (R160). -/
theorem MicroEffect.recIdx_of_ne_replay (he : MicroEffect s i t) (hi : i ≠ .replay) : t.recIdx = s.recIdx := by
  cases he with
  | replayBegins | recordOk => exact absurd rfl hi
  | _ => rfl

/-! ### Where the fixed programs have a micro-op (R90) -/

theorem replay_position {k : Nat} (h : programInstr op k = some .replay) : op = .enable ∧ k = 1 := by
  unfold programInstr at h
  split at h <;> simp at h
  exact ⟨rfl, rfl⟩

theorem setst_position {k : Nat} {c : BitVec 3} (h : programInstr op k = some (.setst c)) :
    (op = .prepare ∧ k = 5 ∧ c = 1#3) ∨ (op = .enable ∧ k = 2 ∧ c = 2#3) ∨ (op = .enable ∧ k = 6 ∧ c = 3#3)
      ∨ (op = .disable ∧ k = 2 ∧ c = 4#3) ∨ (op = .unprepare ∧ k = 3 ∧ c = 0#3) := by
  unfold programInstr at h
  split at h <;> simp at h
  all_goals simp [h]

/-! ### REPLAY by its position in the table (R160) -/

theorem execReplay_begins (hp : s.phase = .fresh) :
    execReplay s = .next { s with recIdx := 0#16, ri := 0, phase := .begun } := by
  simp [execReplay, hp]

theorem execReplay_record (hp : s.phase ≠ .fresh) (hlt : s.ri < s.cfg.nRec.toNat) :
    execReplay s = .next (s.replayRecord (Memory.read s.cfg.table (2 * s.ri)) (Memory.read s.cfg.table (2 * s.ri + 1))) := by
  unfold execReplay
  split
  · exact absurd ‹_› hp
  all_goals rw [if_pos hlt, tableRead_of_lt s.cfg s.ri hlt]

theorem execReplay_ends (hp : s.phase ≠ .fresh) (hge : s.cfg.nRec.toNat ≤ s.ri) : execReplay s = .next s.complete := by
  unfold execReplay
  split
  · exact absurd ‹_› hp
  all_goals rw [if_neg (by omega)]

theorem memRead_of_lt {c : PanelConfig} {a : Nat} (h : a < 2 * c.nRec.toNat) : memRead c a = some (Memory.read c.table a) :=
  if_pos h

/-- The count of records fits REC_IDX, since N_REC does (R31). -/
theorem recIdx_count {c : PanelConfig} {k : Nat} (h : k < c.nRec.toNat) : (BitVec.ofNat 16 (k + 1)).toNat = k + 1 := by
  rw [BitVec.toNat_ofNat, Nat.mod_eq_of_lt]
  have := c.nRec.isLt
  omega

/-! ## The replay -/

/-- The states in which the command table has been replayed (R31). -/
def LifeState.Replayed (st : LifeState) : Prop := st = .configured ∨ st = .active ∨ st = .sleeping

/-- Where no program stands at or before ENABLE's REPLAY, only REC_IDX is left to speak of. -/
theorem State.Replayed.past (h : s.Replayed) (hcfg : t.cfg = s.cfg) (hrec : t.recIdx = s.recIdx)
    (hwritten : t.live = true → t.lifeState.Replayed → s.recIdx = s.cfg.nRec)
    (hop : t.live = true → t.busy = true → t.curOp = some .enable → 3 ≤ t.upc) : t.Replayed where
  bound := by rw [hrec, hcfg]; exact h.bound
  loop := fun ⟨hl, hb, ho, hk, _⟩ => by have := hop hl hb ho; omega
  written hl hst := by rw [hrec, hcfg]; exact hwritten hl hst
  entered hl hb ho hk := by have := hop hl hb ho; omega
  replayed hl hb ho hk := by have := hop hl hb ho; omega

theorem State.Replayed.arrive (h : s.Replayed) : s.arrive.Replayed :=
  ⟨h.bound, h.loop, h.written, h.entered, h.replayed⟩

theorem State.Replayed.settleDetach (h : s.Replayed) : s.settleDetach.Replayed := by
  rcases settleDetach_cases s with heq | ⟨-, -, -, heq⟩ | ⟨-, -, -, heq⟩ <;> rw [heq]
  · exact h
  · exact h.past rfl rfl (by simp) (by simp)
  · exact h.past rfl rfl h.written (by simp)

/-- ENABLE begins with its ACCEPT (R110); no other command goes near the replay. -/
theorem State.Replayed.command (h : s.Replayed) (hb : s.busy = false) (he : CommandEffect s op t) : t.Replayed := by
  cases he with
  | started _ hp hop =>
    by_cases hen : op = .enable
    · subst hen
      exact ⟨h.bound, by simp, h.written, fun _ _ _ _ => ⟨_, rfl⟩, by simp⟩
    · exact h.past rfl rfl h.written (by simp [hen])
  | refused | noop | delivered | unallocated => exact h.past rfl rfl h.written (by simp [hb])

theorem State.Replayed.access {a : HostAccess} (h : s.Replayed) (he : AccessEffect s a t) : t.Replayed := by
  cases he with
  | command _ hb _ _ _ _ he => exact h.command hb he
  | create => constructor <;> simp [State.reset]
  | read | readUnmapped | bank | violates | notFound | detach | dead =>
    exact ⟨h.bound, h.loop, h.written, h.entered, h.replayed⟩

theorem Phase.request_ne_fresh (ph : Phase) (req : Request) (now : Nat) : ph.request req now ≠ .fresh := by
  cases ph <;> simp

/-- REPLAY counts the records it has written, in table order (R160, R161). -/
theorem State.Replayed.replay (h : s.Replayed) (hl : s.live = true) (hb : s.busy = true) (hop : s.curOp = some .enable)
    (hk : s.upc = 1) (hlife : s.lifeState = .resetting) (he : execReplay s = .next t) : t.Replayed := by
  have hrun : s.phase ≠ .fresh → s.Replaying := fun hp => ⟨hl, hb, hop, hk, hp⟩
  rcases replay_cases s t he with ⟨hp, rfl⟩ | ⟨hp, hlt, rfl⟩ | ⟨hp, hge, rfl⟩
  · have hacc := h.entered hl hb hop (.inr ⟨hk, hp⟩)
    exact ⟨by simp, fun _ => ⟨rfl, hacc⟩, by simp [hlife], by simp [hk], by simp [hk]⟩
  · obtain ⟨hri, older, htrace⟩ := h.loop (hrun hp)
    rcases replayRecord_cases s _ _ with ⟨-, heq⟩ | ⟨-, heq⟩ | ⟨-, heq⟩ <;> rw [heq]
    · exact ⟨h.bound, fun _ => ⟨hri, older, htrace⟩, h.written, by simp [hk, Phase.request_ne_fresh], by simp [hk]⟩
    · have hcount : (BitVec.ofNat 16 (s.ri + 1)).toNat = s.ri + 1 := recIdx_count hlt
      refine ⟨?_, fun _ => ⟨hcount.symm, older, ?_⟩, by simp [hlife], by simp [hk], by simp [hk]⟩
      · simpa [hcount] using hlt
      · simp [writesOk, htrace]
    · exact h.past rfl rfl h.written (by simp)
  · obtain ⟨hri, -⟩ := h.loop (hrun hp)
    have hfull : s.recIdx = s.cfg.nRec := BitVec.eq_of_toNat_eq (by have := h.bound; omega)
    exact ⟨h.bound, by simp, h.written, by simp [hk], fun _ _ _ _ => hfull⟩

/-- The WAIT before the replay leaves the ACCEPT the newest event. -/
theorem State.Replayed.firstWait {ms : BitVec 12} (h : s.Replayed) (hl : s.live = true) (hb : s.busy = true)
    (hop : s.curOp = some .enable) (hk : s.upc = 0) (he : execWait ms s = .next t) : t.Replayed := by
  have hacc := h.entered hl hb hop (.inl hk)
  rcases wait_cases s t ms he with ⟨-, rfl⟩ | ⟨-, rfl⟩
  · exact ⟨h.bound, by simp [hk], h.written, fun _ _ _ _ => hacc, by simp [hk]⟩
  · exact ⟨h.bound, by simp, h.written, fun _ _ _ _ => hacc, by simp [hk]⟩

/-- Only ENABLE after its replay, and DISABLE from Active, write a state in which the table has been replayed (R26, R90). -/
theorem State.Replayed.full_of_setst {c : BitVec 3} {st : LifeState} (h : s.Replayed) (hl : s.live = true)
    (hb : s.busy = true) (hop : s.curOp = some op) (hat : s.At op) (hi : programInstr op s.upc = some (.setst c))
    (hc : LifeState.ofCode c = some st) (hst : st.Replayed) : s.recIdx = s.cfg.nRec := by
  rcases setst_position hi with ⟨rfl, -, rfl⟩ | ⟨rfl, hk, rfl⟩ | ⟨rfl, hk, rfl⟩ | ⟨rfl, hk, rfl⟩ | ⟨rfl, -, rfl⟩
  · cases hc
    simp [LifeState.Replayed] at hst
  · exact h.replayed hl hb hop hk
  · obtain ⟨-, -, -, -, -, hlife⟩ := hat
    exact h.written hl (.inl (by simpa [hk] using hlife))
  · obtain ⟨-, -, -, -, hlife⟩ := hat
    exact h.written hl (.inr (.inl (by simpa [hk] using hlife)))
  · cases hc
    simp [LifeState.Replayed] at hst

/-- Once ENABLE has left its first WAIT and its REPLAY, each of its micro-ops leaves it past them. -/
theorem upc_past_replay (hi : programInstr .enable s.upc = some i) (hfirst : s.upc ≠ 0) (hreplay : i ≠ .replay)
    (hm : MicroEffect s i t) (he : exec i s = .next t) : 3 ≤ t.upc := by
  rcases Nat.lt_or_ge s.upc 3 with hlt | hge
  · have hk : s.upc = 2 := by
      have hone : s.upc ≠ 1 := fun hk => hreplay (by rw [hk] at hi; cases hi; rfl)
      omega
    rw [hk] at hi
    cases hi
    cases he
    simp [hk]
  · rcases hm.upc_cases with hupc | ⟨hupc, -⟩ <;> omega

theorem State.Replayed.microOp (h : s.Replayed) (hl : s.live = true) (hb : s.busy = true) (hop : s.curOp = some op)
    (hat : s.At op) (hi : programInstr op s.upc = some i) (hh : i.isHost = false) (he : exec i s = .next t) :
    t.Replayed := by
  have hm := microOp_cases hh he
  by_cases hreplay : i = .replay
  · subst hreplay
    obtain ⟨rfl, hk⟩ := replay_position hi
    obtain ⟨-, -, -, -, -, hlife⟩ := hat
    exact h.replay hl hb hop hk (by simpa [hk] using hlife) he
  by_cases hfirst : op = .enable ∧ s.upc = 0
  · obtain ⟨rfl, hk⟩ := hfirst
    rw [hk] at hi
    cases hi
    exact h.firstWait hl hb hop hk he
  refine h.past hm.framed.cfg (hm.recIdx_of_ne_replay hreplay) (fun _ hst => ?_) (fun _ _ ho => ?_)
  · rcases hm.lifeState_cases with hlife | ⟨c, rfl, hc⟩
    · exact h.written hl (hlife ▸ hst)
    · exact h.full_of_setst hl hb hop hat hi hc hst
  · obtain rfl : op = .enable := Option.some.inj (hop.symm.trans (hm.framed.curOp.symm.trans ho))
    exact upc_past_replay hi (fun hk => hfirst ⟨rfl, hk⟩) hreplay hm he

end

/-- Settles O54: ENABLE's program counts the records, and nothing else comes near the replay. -/
theorem replayedKept : Obligations.ReplayedKept := by
  intro s t hs h hstep
  cases step_effect hstep with
  | idle => exact h.arrive
  | host a u _ he => exact (h.arrive.access he).settleDetach
  | micro w i u _ hl hb hw hi he =>
    obtain ⟨op, hop, hat, hk⟩ := hs.programInstr_of_fetch hl hb hw hi
    exact (h.arrive.microOp hl hb hop hat hk (decodeUop_isHost hi) he).settleDetach

end Sys2Proof.Machine
end

section
/-! PROOFS. What a waiting detach leaves alone, and how an operation ends (R114 to R132, R171, R172). -/

namespace Sys2Proof.Machine

/-! ## What a waiting detach leaves alone -/

section
variable (s : State)

/-- A waiting detach changes only what the end of the block or the entry of UNPREPARE changes (R252). -/
theorem settleDetach_field {α : Type} (f : State → α) (hdestroy : f s.destroy = f s)
    (henter : f (s.enter .unprepare) = f s) : f s.settleDetach = f s := by
  rcases settleDetach_cases s with heq | ⟨-, -, -, heq⟩ | ⟨-, -, -, heq⟩ <;> rw [heq]
  · exact hdestroy
  · exact henter

@[simp] theorem settleDetach_cfg : s.settleDetach.cfg = s.cfg := settleDetach_field s (·.cfg) rfl rfl
@[simp] theorem settleDetach_urom : s.settleDetach.urom = s.urom := settleDetach_field s (·.urom) rfl rfl
@[simp] theorem settleDetach_lifeState : s.settleDetach.lifeState = s.lifeState :=
  settleDetach_field s (·.lifeState) rfl rfl
@[simp] theorem settleDetach_protoFault : s.settleDetach.protoFault = s.protoFault :=
  settleDetach_field s (·.protoFault) rfl rfl
@[simp] theorem settleDetach_readFault : s.settleDetach.readFault = s.readFault :=
  settleDetach_field s (·.readFault) rfl rfl
@[simp] theorem settleDetach_result : s.settleDetach.result = s.result := settleDetach_field s (·.result) rfl rfl
@[simp] theorem settleDetach_warn : s.settleDetach.warn = s.warn := settleDetach_field s (·.warn) rfl rfl
@[simp] theorem settleDetach_recIdx : s.settleDetach.recIdx = s.recIdx := settleDetach_field s (·.recIdx) rfl rfl
@[simp] theorem settleDetach_bank : s.settleDetach.bank = s.bank := settleDetach_field s (·.bank) rfl rfl
@[simp] theorem settleDetach_railReq : s.settleDetach.railReq = s.railReq := settleDetach_field s (·.railReq) rfl rfl
@[simp] theorem settleDetach_resetN : s.settleDetach.resetN = s.resetN := settleDetach_field s (·.resetN) rfl rfl
@[simp] theorem settleDetach_trace : s.settleDetach.trace = s.trace := settleDetach_field s (·.trace) rfl rfl
@[simp] theorem settleDetach_now : s.settleDetach.now = s.now := settleDetach_field s (·.now) rfl rfl
@[simp] theorem settleDetach_registry : s.settleDetach.registry = s.registry :=
  settleDetach_field s (·.registry) rfl rfl

end

/-! ## How an operation ends -/

/-- How a micro-op ends its operation: END, a fatal RAIL that fails, or a record whose write fails (R152, R160, R172). -/
inductive EndEffect (s : State) : Instr → State → Prop where
  | ended : EndEffect s .endProgram (s.finish s.pend.toResult)
  | rail (en : Bool) :
      EndEffect s (.rail true en) (((s.issueRail en).answered (.rail en .err)).raise .powerError)
  | record (b0 b1 : Byte) (hp : s.phase ≠ .fresh) (hlt : s.ri < s.cfg.nRec.toNat) :
      EndEffect s .replay (((s.issue (.write s.ri b0 b1)).answered (.write s.ri b0 b1 .err)).raise .transportError)

/-- From `s` to `t` no DONE was emitted: the trace is the same or has one new event, another one. -/
def State.NoDone (s t : State) : Prop :=
  t.trace = s.trace ∨ ∃ e, t.trace = e :: s.trace ∧ ∀ op r, e.kind ≠ .done op r

section
variable {s t u : State} {i : Instr} {op : HostOp} {r : ResultCode}

/-- A micro-op ends its operation, or leaves BUSY and RESULT and emits no DONE (R171, R172). -/
theorem MicroEffect.ends_or_goes_on (he : MicroEffect s i t) :
    EndEffect s i t ∨ (t.busy = s.busy ∧ t.result = s.result ∧ s.NoDone t) := by
  cases he with
  | ended => exact .inl .ended
  | railRaises en => exact .inl (.rail en)
  | recordRaises b0 b1 hp hlt => exact .inl (.record b0 b1 hp hlt)
  | stateSet | driven | railOk | railPends | dcsOk | dcsWarns | recordOk =>
    exact .inr ⟨rfl, rfl, .inr ⟨_, rfl, fun _ _ h => nomatch h⟩⟩
  | gateClosed | gateOpen | railWaits | dcsWaits | replayBegins | recordWaits | replayEnds =>
    exact .inr ⟨rfl, rfl, .inl rfl⟩

/-- An end clears BUSY, writes RESULT and emits DONE of CUR_OP (R171, R172). -/
theorem EndEffect.done (he : EndEffect s i t) (hop : s.curOp = some op) :
    t.busy = false ∧ ∃ older, t.trace = ⟨.done op t.result, t.now, t.now⟩ :: older
      ∧ (older = s.trace ∨ ∃ e, older = e :: s.trace) := by
  cases he with
  | ended => exact ⟨rfl, s.trace, by simp [hop], .inl rfl⟩
  | rail | record => exact ⟨rfl, _, by simp [hop]; rfl, .inr ⟨_, rfl⟩⟩

theorem EndEffect.keeps (he : EndEffect s i t) : t.warn = s.warn ∧ t.recIdx = s.recIdx ∧ t.lifeState = s.lifeState
    ∧ t.resetN = s.resetN ∧ t.cfg = s.cfg := by
  cases he <;> exact ⟨rfl, rfl, rfl, rfl, rfl⟩

theorem State.NoDone.not_endsWith (h : s.NoDone t) : ¬ s.EndsWith t r := by
  rintro ⟨op, older, htrace, rfl | ⟨e, rfl⟩⟩
  · rcases h with heq | ⟨e, heq, hne⟩
    · exact absurd (heq.symm.trans htrace) (by simp)
    · rw [heq] at htrace
      cases htrace
      exact hne _ _ rfl
  · rcases h with heq | ⟨e', heq, -⟩
    · exact absurd (congrArg List.length (heq.symm.trans htrace)) (by simp; omega)
    · exact absurd (congrArg List.length (heq.symm.trans htrace)) (by simp)

/-- While an operation runs no host access emits an event (R113, R223). -/
theorem AccessEffect.busy_kept {a : HostAccess} (he : AccessEffect s a t) (hl : s.live = true) (hb : s.busy = true) :
    t.busy = true ∧ t.trace = s.trace := by
  cases he with
  | command _ hb' => exact absurd (hb.symm.trans hb') (by decide)
  | notFound hl' | create hl' => exact absurd (hl.symm.trans hl') (by decide)
  | read | readUnmapped | bank | violates | detach | dead => exact ⟨hb, rfl⟩

/-- A step of a running program ends the operation, or keeps it going and emits no DONE. -/
theorem State.Sequenced.ends_or_goes_on (h : s.Sequenced) (hl : s.live = true) (hb : s.busy = true)
    (hstep : step s = .next t) :
    (t.busy = true ∧ s.NoDone t)
      ∨ ∃ op i u, s.curOp = some op ∧ s.At op ∧ programInstr op s.upc = some i ∧ EndEffect s.arrive i u
        ∧ u.detaching = s.detaching ∧ t = u.settleDetach := by
  cases step_effect hstep with
  | idle _ hidle => exact absurd ⟨hl, hb⟩ hidle
  | host a u _ he =>
    obtain ⟨hb', htrace⟩ := he.busy_kept hl hb
    rw [settleDetach_busy u hb']
    exact .inl ⟨hb', .inl htrace⟩
  | micro w i u _ _ _ hw hi he =>
    obtain ⟨op, hop, hat, hk⟩ := h.programInstr_of_fetch hl hb hw hi
    have hm := microOp_cases (decodeUop_isHost hi) he
    rcases hm.ends_or_goes_on with hend | ⟨hb', -, hno⟩
    · exact .inr ⟨op, i, u, hop, hat, hk, hend, hm.framed.detaching, rfl⟩
    · have hbusy : u.busy = true := hb'.trans hb
      rw [settleDetach_busy u hbusy]
      exact .inl ⟨hbusy, hno⟩

end

/-- Settles O46: a step that clears BUSY ends the operation, and a detach emits nothing more. -/
theorem busyFalls : Obligations.BusyFalls := by
  intro s t h hl hstep hb hb'
  rcases h.ends_or_goes_on hl hb hstep with ⟨hbusy, -⟩ | ⟨op, i, u, hop, -, -, hend, -, rfl⟩
  · exact absurd (hbusy.symm.trans hb') (by decide)
  · obtain ⟨-, older, htrace, holder⟩ := hend.done hop
    exact ⟨op, older, hop, by simpa using htrace, holder⟩

section
variable {s u : State} {i : Instr}

theorem end_position {op : HostOp} {k : Nat} (h : programInstr op k = some .endProgram) :
    (op = .prepare ∧ k = 6) ∨ (op = .enable ∧ k = 7) ∨ (op = .disable ∧ k = 3) ∨ (op = .unprepare ∧ k = 4) := by
  unfold programInstr at h
  split at h <;> simp at h
  all_goals simp

theorem fatalRail_position {op : HostOp} {k : Nat} {en : Bool} (h : programInstr op k = some (.rail true en)) :
    op = .prepare ∧ k = 0 ∧ en = true := by
  unfold programInstr at h
  split at h <;> simp at h
  exact ⟨rfl, rfl, h⟩

/-- PREPARE ends in Resetting with the panel released, or in Unpowered when the rail has failed (R114, R116). -/
theorem EndEffect.prepare_outcome (he : EndEffect s i u) (hat : s.At .prepare)
    (hi : programInstr .prepare s.upc = some i) :
    u.warn = 0#4 ∧ u.railReq = .on
      ∧ ((u.lifeState = .resetting ∧ u.result = .ok ∧ u.resetN = .driven .high)
        ∨ (u.lifeState = .unpowered ∧ u.result = .powerError ∧ u.resetN = s.resetN)) := by
  obtain ⟨-, hpend, hwarn, hlife, hrail, -, hhigh⟩ := hat
  cases he with
  | ended =>
    have hk : s.upc = 6 := by simpa using end_position hi
    simp_all [Pend.toResult]
  | rail en =>
    obtain ⟨-, hk, rfl⟩ := fatalRail_position hi
    simp_all [RailReq.ofEn]
  | record => cases (replay_position hi).1

/-- ENABLE ends in Active with every record written, or in Resetting at the record whose write failed (R121, R123). -/
theorem EndEffect.enable_outcome (he : EndEffect s i u) (hat : s.At .enable) (hi : programInstr .enable s.upc = some i)
    (h : s.Replayed) (hl : s.live = true) (hb : s.busy = true) (hop : s.curOp = some .enable) :
    u.warn &&& 0b1100#4 = 0#4 ∧ u.railReq = .on ∧ u.resetN = .driven .high
      ∧ ((u.lifeState = .active ∧ u.result = .ok ∧ u.recIdx = u.cfg.nRec)
        ∨ (u.lifeState = .resetting ∧ u.result = .transportError ∧ u.warn = 0#4 ∧ u.recIdx.toNat < u.cfg.nRec.toNat)) := by
  obtain ⟨-, hpend, ⟨hrail, hreset⟩, hwarn0, hwarn, hlife⟩ := hat
  cases he with
  | ended =>
    have hk : s.upc = 7 := by simpa using end_position hi
    simp only [hk] at hlife
    have hfull := h.written hl (.inr (.inl (by simpa using hlife)))
    simp_all [Pend.toResult]
  | rail en => cases (fatalRail_position hi).1
  | record b0 b1 hp hlt =>
    obtain ⟨-, hk⟩ := replay_position hi
    obtain ⟨hri, -⟩ := h.loop ⟨hl, hb, hop, hk, hp⟩
    rw [hri] at hlt
    simp_all

/-- DISABLE ends in Sleeping (R126). -/
theorem EndEffect.disable_outcome (he : EndEffect s i u) (hat : s.At .disable)
    (hi : programInstr .disable s.upc = some i) :
    u.warn &&& 0b0011#4 = 0#4 ∧ u.railReq = .on ∧ u.resetN = .driven .high ∧ u.lifeState = .sleeping ∧ u.result = .ok := by
  obtain ⟨-, hpend, ⟨hrail, hreset⟩, hwarn, hlife⟩ := hat
  cases he with
  | ended =>
    have hk : s.upc = 3 := by simpa using end_position hi
    simp_all [Pend.toResult]
  | rail en => cases (fatalRail_position hi).1
  | record => cases (replay_position hi).1

/-- UNPREPARE ends in Unpowered, whatever the rail answered (R130, R132). -/
theorem EndEffect.unprepare_outcome (he : EndEffect s i u) (hat : s.At .unprepare)
    (hi : programInstr .unprepare s.upc = some i) :
    u.railReq = .off ∧ u.resetN = .driven .low ∧ u.lifeState = .unpowered ∧ (u.result = .ok ∨ u.result = .powerError) := by
  obtain ⟨-, -, -, hlow, hrail, hlast⟩ := hat
  cases he with
  | ended =>
    have hk : s.upc = 4 := by simpa using end_position hi
    refine ⟨hrail (by omega), hlow (by omega), hlast hk, ?_⟩
    cases s.pend <;> simp [Pend.toResult]
  | rail en => cases (fatalRail_position hi).1
  | record => cases (replay_position hi).1

end

/-- Settles O57: the program ends at its END, at PREPARE's fatal RAIL or at ENABLE's REPLAY, where its place says what the
registers hold; a detach that goes on then leaves these registers. -/
theorem operationOutcomes : Obligations.OperationOutcomes := by
  intro s t r h hrep hl hstep hb hends
  rcases h.ends_or_goes_on hl hb hstep with ⟨-, hno⟩ | ⟨op, i, u, hop, hat, hk, hend, hdet, rfl⟩
  · exact absurd hends hno.not_endsWith
  obtain ⟨hidle, older, htrace, -⟩ := hend.done hop
  obtain ⟨hwarn, hrec, -⟩ := hend.keeps
  have hr : u.result = r := by
    obtain ⟨op', older', htrace', -⟩ := hends
    simp only [settleDetach_trace, htrace, List.cons.injEq, Event.mk.injEq, EventKind.done.injEq] at htrace'
    obtain ⟨⟨⟨-, hr⟩, -⟩, -⟩ := htrace'
    exact hr
  have hbusy : s.detaching = false → u.settleDetach.busy = false := fun hd => by
    rw [settleDetach_not_detaching u (hdet.trans hd)]
    exact hidle
  simp only [settleDetach_result, settleDetach_warn, settleDetach_recIdx, settleDetach_railReq, settleDetach_resetN,
    settleDetach_lifeState, settleDetach_cfg]
  refine ⟨hr, hbusy, hwarn, hrec, ?_⟩
  rw [hop]
  cases op with
  | prepare => exact hend.prepare_outcome hat hk
  | enable => exact hend.enable_outcome hat hk hrep.arrive hl hb hop
  | disable => exact hend.disable_outcome hat hk
  | unprepare => exact hend.unprepare_outcome hat hk
  | getModes => exact hat.elim

end Sys2Proof.Machine
end

section
/-! PROOFS. How BUSY rises (R27), and what stays while the block is live. -/

namespace Sys2Proof.Machine

section
variable {s t u : State} {i : Instr} {a : HostAccess}

/-! ## How BUSY rises -/

/-- A host access to an idle block starts an operation, or leaves the block idle and has no detach wait but its own (R110,
R252). -/
theorem AccessEffect.idle_cases (he : AccessEffect s a t) (hb : s.busy = false) :
    (∃ v op, a = .write 0x00 v ∧ decodeHost v = .ok op.instr ∧ precondition op s.lifeState = true ∧ t = s.start op)
      ∨ (t.busy = false ∧ (t.detaching = true → s.detaching = true ∨ (a = .detach ∧ t.lifeState = s.lifeState))) := by
  cases he with
  | command _ _ v op hv _ he =>
    cases he with
    | started _ hp => exact .inl ⟨v, op, rfl, hv, hp, rfl⟩
    | refused | noop | delivered | unallocated => exact .inr ⟨hb, .inl⟩
  | create => exact .inr ⟨rfl, by simp [State.reset]⟩
  | detach => exact .inr ⟨hb, fun _ => .inr ⟨rfl, rfl⟩⟩
  | read | readUnmapped | bank | violates | notFound | dead => exact .inr ⟨hb, .inl⟩

/-- A waiting detach makes an idle block busy only by entering UNPREPARE's program (R252). -/
theorem settleDetach_raises (hb : s.busy = false) (ht : s.settleDetach.busy = true) :
    s.detaching = true ∧ s.lifeState ≠ .unpowered ∧ s.settleDetach = s.enter .unprepare := by
  rcases settleDetach_cases s with heq | ⟨-, -, -, heq⟩ | ⟨hd, -, hlife, heq⟩
  · rw [heq, hb] at ht; cases ht
  · rw [heq, State.destroy_busy, hb] at ht; cases ht
  · exact ⟨hd, hlife, heq⟩

end

/-- Settles O45: only a command or a detach can start a program on an idle block, for which no detach has waited. -/
theorem busyRises : Obligations.BusyRises := by
  intro s t h hstep hb ht
  have hnone : s.detaching ≠ true := fun hd => absurd ((h.detach hd).2.symm.trans hb) (by decide)
  cases step_effect hstep with
  | idle => exact absurd (hb.symm.trans ht) (by decide)
  | host a u ha he =>
    rcases he.idle_cases hb with ⟨v, op, rfl, hv, hp, rfl⟩ | ⟨hb', hdet⟩
    · rw [settleDetach_busy _ rfl]
      exact ⟨rfl, rfl, .inl ⟨v, op, ha, hv, rfl, hp, rfl, rfl⟩⟩
    · obtain ⟨hd, hlife, heq⟩ := settleDetach_raises hb' ht
      obtain ⟨rfl, hsame⟩ := (hdet hd).resolve_left hnone
      rw [heq]
      exact ⟨rfl, rfl, .inr ⟨ha, rfl, hd, hsame ▸ hlife⟩⟩
  | micro _ _ _ _ _ hb' => exact absurd (hb.symm.trans hb') (by decide)

section
variable {s t u : State} {i : Instr} {a : HostAccess}

/-! ## What stays while the block is live -/

/-- What no step of a live block undoes: the configuration, the fault marks, and the first write of each MO and DI register
(R23, R28, R36). -/
structure State.Persists (s t : State) : Prop where
  cfg : t.cfg = s.cfg
  protoFault : s.protoFault = true → t.protoFault = true
  readFault : s.readFault = true → t.readFault = true
  written : ∀ r, (s.bank.get r).written = true → (t.bank.get r).written = true

theorem State.Persists.of_eq (hcfg : t.cfg = s.cfg) (hproto : t.protoFault = s.protoFault)
    (hread : t.readFault = s.readFault) (hbank : t.bank = s.bank) : s.Persists t := by
  refine ⟨hcfg, ?_, ?_, ?_⟩
  · rw [hproto]; exact id
  · rw [hread]; exact id
  · rw [hbank]; exact fun _ => id

theorem MicroEffect.persists (he : MicroEffect s i t) : s.Persists t :=
  .of_eq he.framed.cfg he.framed.protoFault he.framed.readFault he.framed.bank

theorem ModeBank.written_set {b : ModeBank} {v : HostWord} {r q : BankReg} (h : (b.get q).written = true) :
    ((b.set v r).get q).written = true := by
  by_cases hq : q = r
  · rw [hq, ModeBank.get_set_self]
    rfl
  · rw [ModeBank.get_set_other b v r q hq]
    exact h

theorem CommandEffect.persists {op : HostOp} (he : CommandEffect s op t) : s.Persists t := by
  cases he with
  | delivered => exact ⟨rfl, id, id, by simp⟩
  | refused | started | noop | unallocated => exact .of_eq rfl rfl rfl rfl

theorem AccessEffect.persists (he : AccessEffect s a t) (hl : s.live = true) : s.Persists t := by
  cases he with
  | read => exact ⟨rfl, id, by simp +contextual, fun _ => id⟩
  | readUnmapped | violates => exact ⟨rfl, fun _ => rfl, id, fun _ => id⟩
  | command _ _ _ _ _ _ he => exact he.persists
  | bank => exact ⟨rfl, id, id, fun _ => ModeBank.written_set⟩
  | notFound hl' | create hl' => exact absurd (hl.symm.trans hl') (by decide)
  | detach | dead => exact .of_eq rfl rfl rfl rfl

theorem State.Persists.of_arrive (h : s.arrive.Persists t) : s.Persists t :=
  ⟨h.cfg, h.protoFault, h.readFault, h.written⟩

theorem State.Persists.settleDetach (h : s.Persists t) : s.Persists t.settleDetach := by
  constructor
  · simpa using h.cfg
  · simpa using h.protoFault
  · simpa using h.readFault
  · simpa using h.written

theorem step_persists (hl : s.live = true) (hstep : step s = .next t) : s.Persists t := by
  cases step_effect hstep with
  | idle => exact .of_eq rfl rfl rfl rfl
  | host a u _ he => exact (he.persists hl).of_arrive.settleDetach
  | micro w i u _ _ _ _ hi he => exact (microOp_cases (decodeUop_isHost hi) he).persists.of_arrive.settleDetach

end
end Sys2Proof.Machine
end

section
/-! PROOFS. What sets a fault mark, what changes the ROMs, STATE and RESULT, what ends a live block, and what stops a step. -/

namespace Sys2Proof.Machine

section
variable {s t u : State} {i : Instr} {a : HostAccess} {op : HostOp}

/-! ## What sets a fault mark -/

theorem violates_arrive : s.arrive.Violates a ↔ s.Violates a := by
  cases a <;> exact Iff.rfl

theorem CommandEffect.marks (he : CommandEffect s op t) : t.protoFault = s.protoFault ∧ t.readFault = s.readFault := by
  cases he <;> exact ⟨rfl, rfl⟩

/-- The read of an unwritten MO or DI register alone sets the mark of R23. -/
theorem AccessEffect.readFault_cases (he : AccessEffect s a t) (ht : t.readFault = true) :
    s.readFault = true ∨ ∃ n r, a = .read n ∧ HostReg.ofNum n = some (.bank r) ∧ (s.bank.get r).written = false := by
  cases he with
  | read _ n r hr =>
    rcases (Bool.or_eq_true _ _).mp ht with hun | hold
    · cases r with
      | bank r => exact .inr ⟨n, r, rfl, hr, by simpa [State.unwritten] using hun⟩
      | _ => cases hun
    · exact .inl hold
  | command _ _ _ _ _ _ he => exact .inl (he.marks.2 ▸ ht)
  | create => cases ht
  | readUnmapped | bank | violates | notFound | detach | dead => exact .inl ht

/-- A violation alone sets PROTO_FAULT (R28, R223). -/
theorem AccessEffect.protoFault_cases (he : AccessEffect s a t) (ht : t.protoFault = true) :
    s.protoFault = true ∨ s.Violates a := by
  cases he with
  | readUnmapped _ n hn => exact .inr hn
  | violates _ _ _ h => exact .inr h
  | command _ _ _ _ _ _ he => exact .inl (he.marks.1 ▸ ht)
  | create => cases ht
  | read | bank | notFound | detach | dead => exact .inl ht

theorem not_final_of_faulted (h : s.Faulted) : ¬ s.Final := fun ⟨_, _, hn⟩ => hn h

end

/-- Settles O18: a read returns the register's word and marks only an unwritten one; the rest stays in a live block. -/
theorem unwrittenReadFaults : Obligations.UnwrittenReadFaults := by
  refine ⟨fun s n hl hlo hhi => ?_, fun s t hstep hl => (step_persists hl hstep).readFault, fun s t hstep ht => ?_,
    fun s hf => not_final_of_faulted (.inr hf), fun s t r hstep hl => (step_persists hl hstep).written r⟩
  · obtain ⟨r, hr⟩ := exists_bank_of_range hlo hhi
    refine ⟨r, hr, ?_⟩
    rw [hostAccess_read hl]
    cases hw : (s.bank.get r).written <;> simp [hostRead, hr, State.reading, State.unwritten, readReg, hw]
  · cases step_effect hstep with
    | idle => exact .inl ht
    | host a u ha he =>
      rcases he.readFault_cases (by simpa using ht) with hold | ⟨n, r, rfl, hr, hw⟩
      · exact .inl hold
      · exact .inr ⟨n, r, ha, hr, hw⟩
    | micro w i u _ _ _ _ hi he =>
      have hf := (microOp_cases (decodeUop_isHost hi) he).framed
      exact .inl (hf.readFault.symm.trans (by simpa using ht))

/-- Settles O19: a violating read or write only sets the bit, which stays in a live block. -/
theorem protocolViolations : Obligations.ProtocolViolations := by
  refine ⟨fun s n hl hv => ?_, fun s n v hl hv => ?_, fun s n v hl => ?_,
    fun s t hstep hl => (step_persists hl hstep).protoFault, fun s hf => not_final_of_faulted (.inl hf)⟩
  · rw [hostAccess_read hl, hostRead, ofNum_eq_none.mpr hv]
    rfl
  · rw [hostAccess_write hl]
    exact hostWrite_violation hl hv
  · exact ⟨hostAccess_dead hl (by simp), hostAccess_dead hl (by simp)⟩

/-- Settles O20: of everything a step can do only a violation sets the bit. -/
theorem onlyViolationsFault : Obligations.OnlyViolationsFault := by
  intro s t hstep ht
  cases step_effect hstep with
  | idle => exact .inl ht
  | host a u ha he =>
    exact (he.protoFault_cases (by simpa using ht)).imp id fun hv => ⟨a, ha, violates_arrive.mp hv⟩
  | micro w i u _ _ _ _ hi he =>
    have hf := (microOp_cases (decodeUop_isHost hi) he).framed
    exact .inl (hf.protoFault.symm.trans (by simpa using ht))

section
variable {s t u : State} {i : Instr} {a : HostAccess} {op : HostOp}

/-! ## The ROMs, the time and STATE -/

theorem CommandEffect.framed (he : CommandEffect s op t) :
    t.urom = s.urom ∧ t.registry = s.registry ∧ t.now = s.now ∧ t.lifeState = s.lifeState ∧ t.live = s.live
      ∧ t.detaching = s.detaching := by
  cases he <;> exact ⟨rfl, rfl, rfl, rfl, rfl, rfl⟩

/-- The host writes no ROM (R52, R58), and time moves only with the arrival of an input (R234). -/
theorem AccessEffect.roms (he : AccessEffect s a t) : t.urom = s.urom ∧ t.registry = s.registry ∧ t.now = s.now := by
  cases he with
  | command _ _ _ _ _ _ he =>
    obtain ⟨hurom, hreg, hnow, -⟩ := he.framed
    exact ⟨hurom, hreg, hnow⟩
  | _ => exact ⟨rfl, rfl, rfl⟩

/-- No host access to a live block changes STATE or ends the block, and a detach is what makes one wait (R170, R252). -/
theorem AccessEffect.live_kept (he : AccessEffect s a t) (hl : s.live = true) :
    t.live = true ∧ t.lifeState = s.lifeState ∧ (t.detaching = s.detaching ∨ a = .detach) := by
  cases he with
  | command _ _ _ _ _ _ he =>
    obtain ⟨-, -, -, hlife, hlive, hdet⟩ := he.framed
    exact ⟨hlive.trans hl, hlife, .inl hdet⟩
  | notFound hl' | create hl' => exact absurd (hl.symm.trans hl') (by decide)
  | detach => exact ⟨hl, rfl, .inr rfl⟩
  | read | readUnmapped | bank | violates | dead => exact ⟨hl, rfl, .inl rfl⟩

/-- Only a waiting detach ends a live block, idle and in Unpowered (R252). -/
theorem settleDetach_ends (hl : s.live = true) (ht : s.settleDetach.live = false) :
    s.detaching = true ∧ s.lifeState = .unpowered ∧ s.settleDetach.busy = false ∧ s.settleDetach.detaching = false := by
  rcases settleDetach_cases s with heq | ⟨hd, hb, hlife, heq⟩ | ⟨-, -, -, heq⟩
  · rw [heq, hl] at ht; cases ht
  · rw [heq]
    exact ⟨hd, hlife, hb, rfl⟩
  · rw [heq, State.enter_live, hl] at ht; cases ht

theorem LifeState.code_of_ofCode {c : BitVec 3} {st : LifeState} (h : LifeState.ofCode c = some st) : st.code = c := by
  cases st <;> revert c <;> decide

end

/-- Settles O43: neither the host nor a micro-op writes a ROM, and an input only adds to the time. -/
theorem romsNeverWritten : Obligations.RomsNeverWritten := by
  intro s t hstep
  have hcfg : s.live = true → t.cfg = s.cfg ∧ ∀ a, memRead t.cfg a = memRead s.cfg a := fun hl => by
    have h := (step_persists hl hstep).cfg
    exact ⟨h, fun a => by rw [h]⟩
  cases step_effect hstep with
  | idle => exact ⟨rfl, rfl, Nat.le_add_right _ _, hcfg⟩
  | host a u ha he =>
    obtain ⟨hurom, hreg, hnow⟩ := he.roms
    exact ⟨by simp [hurom], by simp [hreg], by simp [hnow], hcfg⟩
  | micro w i u _ _ _ _ hi he =>
    have hf := (microOp_cases (decodeUop_isHost hi) he).framed
    exact ⟨by simp [hf.urom], by simp [hf.registry], by simp [hf.now], hcfg⟩

/-- Settles O44: no host access and no detach writes STATE, and of the micro-ops only SETST does. -/
theorem stateOnlyBySetst : Obligations.StateOnlyBySetst := by
  intro s t hl hstep hne
  cases step_effect hstep with
  | idle => exact absurd rfl hne
  | host a u _ he =>
    obtain ⟨-, hlife, -⟩ := he.live_kept hl
    exact absurd (by simpa using hlife) hne
  | micro w i u hhost _ hb hw hi he =>
    rw [settleDetach_lifeState] at hne ⊢
    rcases (microOp_cases (decodeUop_isHost hi) he).lifeState_cases with hlife | ⟨c, rfl, hc⟩
    · exact absurd hlife hne
    · exact ⟨hhost, hb, w, c, hw, hi, LifeState.code_of_ofCode hc⟩

/-- Settles O15: a live block outlives every turn, and only a waiting detach then ends it. -/
theorem instanceEndsUnpowered : Obligations.InstanceEndsUnpowered := by
  intro s t _ hl hstep ht
  cases step_effect hstep with
  | idle => exact absurd (hl.symm.trans ht) (by decide)
  | host a u ha he =>
    obtain ⟨hl', -, hdet⟩ := he.live_kept hl
    obtain ⟨hd, hlife, hb, hd'⟩ := settleDetach_ends hl' ht
    exact ⟨by simpa using hlife, hb, hd', hdet.imp (fun h => h.symm.trans hd) fun h => by rw [ha, h]⟩
  | micro w i u _ _ _ _ hi he =>
    have hf := (microOp_cases (decodeUop_isHost hi) he).framed
    obtain ⟨hd, hlife, hb, hd'⟩ := settleDetach_ends (hf.live.trans hl) ht
    exact ⟨by simpa using hlife, hb, hd', .inl (hf.detaching.symm.trans hd)⟩

section
variable {s t u : State} {i : Instr} {a : HostAccess} {op : HostOp}

/-! ## RESULT -/

theorem CommandEffect.result_ne_notFound (he : CommandEffect s op t) (h : s.result ≠ .notFound) : t.result ≠ .notFound := by
  cases he with
  | started => exact h
  | refused | noop | delivered | unallocated => exact fun h' => nomatch h'

/-- NotFound is the attach port's answer, which RESULT does not hold (R29). -/
theorem AccessEffect.result_ne_notFound (he : AccessEffect s a t) (h : s.result ≠ .notFound) : t.result ≠ .notFound := by
  cases he with
  | command _ _ _ _ _ _ he => exact he.result_ne_notFound h
  | create => exact fun h' => nomatch h'
  | _ => exact h

theorem EndEffect.result_ne_notFound (he : EndEffect s i t) : t.result ≠ .notFound := by
  cases he with
  | ended => rw [State.finish_result]; cases s.pend <;> exact fun h' => nomatch h'
  | rail | record => exact fun h' => nomatch h'

end

/-- Settles O9: the codes, and that no turn writes NotFound to RESULT. -/
theorem resultCodes : Obligations.ResultCodes := by
  refine ⟨rfl, rfl, rfl, rfl, rfl, rfl, rfl, fun r => by cases r <;> decide, by decide, fun s t hstep hs => ?_⟩
  cases step_effect hstep with
  | idle => exact hs
  | host a u _ he =>
    rw [settleDetach_result]
    exact he.result_ne_notFound hs
  | micro w i u _ _ _ _ hi he =>
    rw [settleDetach_result]
    rcases (microOp_cases (decodeUop_isHost hi) he).ends_or_goes_on with hend | ⟨-, hsame, -⟩
    · exact hend.result_ne_notFound
    · rw [hsame]
      exact hs

section
variable {s : State} {i : Instr}

/-! ## What stops a step -/

/-- Every well-formed instruction has a next state in every state (R25, R51, R91). -/
theorem exec_next (hi : i.wellFormed = true) (s : State) : ∃ t, exec i s = .next t := by
  cases i with
  | setst c =>
    have hc : (LifeState.ofCode c).isSome := by
      revert c
      decide
    obtain ⟨st, hst⟩ := Option.isSome_iff_exists.mp hc
    exact ⟨_, by simp [exec, execSetst, hst]; rfl⟩
  | replay =>
    by_cases hp : s.phase = .fresh
    · exact ⟨_, execReplay_begins hp⟩
    · rcases Nat.lt_or_ge s.ri s.cfg.nRec.toNat with hlt | hge
      · exact ⟨_, execReplay_record hp hlt⟩
      · exact ⟨_, execReplay_ends hp hge⟩
  | _ => exact ⟨_, rfl⟩

theorem programInstr_wellFormed {op : HostOp} {k : Nat} (h : programInstr op k = some i) : i.wellFormed = true := by
  unfold programInstr at h
  split at h <;> cases h
  all_goals rfl

/-- At every place where a program may stand there is a micro-op (R90). -/
theorem State.At.exists_programInstr {op : HostOp} (h : s.At op) : ∃ i, programInstr op s.upc = some i := by
  cases op with
  | prepare | enable | disable | unprepare =>
    obtain ⟨hk, -⟩ := h
    generalize s.upc = k at hk
    interval_cases k <;> exact ⟨_, rfl⟩
  | getModes => exact h.elim

/-- With the fixed ROM the sequencer's turn always has a well-formed micro-op to run (R90, R91). -/
theorem State.Sequenced.exists_fetch (h : s.Sequenced) (hl : s.live = true) (hb : s.busy = true) :
    ∃ w i, s.fetch = some w ∧ decodeUop w = .ok i ∧ i.wellFormed = true := by
  obtain ⟨op, hop, hat⟩ := h.running hl hb
  obtain ⟨i, hi⟩ := hat.exists_programInstr
  rcases fixed_decodes op s.upc with ⟨w, j, hw, hj, hij⟩ | ⟨-, hnone⟩
  · exact ⟨w, j, by simpa [State.fetch, hop, h.rom] using hw, hj, programInstr_wellFormed hij⟩
  · cases hi.symm.trans hnone

/-- A host access has a next state, but for an attach to a live block and a second detach. -/
theorem hostAccess_outcome (a : HostAccess) (s : State) :
    (∃ t, hostAccess a s = .next t)
      ∨ (hostAccess a s = .refused .attachWhileLive ∧ s.live = true ∧ ∃ key, a = .attach key)
      ∨ (hostAccess a s = .refused .detachWhileDetaching ∧ s.detaching = true ∧ a = .detach) := by
  cases hl : s.live with
  | true =>
    cases a with
    | read n =>
      rw [hostAccess_read hl]
      unfold hostRead
      split <;> exact .inl ⟨_, rfl⟩
    | write n v =>
      rw [hostAccess_write hl]
      unfold hostWrite
      split
      · split
        · obtain ⟨op, rfl⟩ := decodeHost_instr ‹_›
          exact .inl ⟨_, exec_instr op s⟩
        · exact .inl ⟨_, rfl⟩
      all_goals exact .inl ⟨_, rfl⟩
    | attach key => exact .inr (.inl ⟨hostAccess_attach_live hl key, rfl, key, rfl⟩)
    | detach =>
      cases hd : s.detaching with
      | true => exact .inr (.inr ⟨hostAccess_detach_again hl hd, rfl, rfl⟩)
      | false => exact .inl ⟨_, hostAccess_detach hl hd⟩
  | false =>
    cases a with
    | attach key =>
      cases hk : lookup s.registry key with
      | none => exact .inl ⟨_, hostAccess_attach_notFound hl hk⟩
      | some c => exact .inl ⟨_, hostAccess_attach_found hl hk⟩
    | read | write | detach => exact .inl ⟨_, hostAccess_dead hl (by simp)⟩

/-- A step has a next state, but for an attach to a live block and a second detach. -/
theorem State.Sequenced.step_outcome (h : s.Sequenced) :
    (∃ t, step s = .next t)
      ∨ (step s = .refused .attachWhileLive ∧ s.live = true ∧ ∃ key, s.nextInput.host = some (.attach key))
      ∨ (step s = .refused .detachWhileDetaching ∧ s.detaching = true ∧ s.nextInput.host = some .detach) := by
  cases hhost : s.nextInput.host with
  | some a =>
    rw [step_of_access hhost]
    rcases hostAccess_outcome a s.arrive with ⟨t, ht⟩ | ⟨ht, hl, key, rfl⟩ | ⟨ht, hd, rfl⟩ <;> rw [ht]
    · exact .inl ⟨_, rfl⟩
    · exact .inr (.inl ⟨rfl, hl, key, rfl⟩)
    · exact .inr (.inr ⟨rfl, hd, rfl⟩)
  | none =>
    refine .inl ?_
    by_cases hrun : s.live = true ∧ s.busy = true
    · obtain ⟨hl, hb⟩ := hrun
      obtain ⟨w, i, hw, hi, hwf⟩ := h.exists_fetch hl hb
      obtain ⟨t, ht⟩ := exec_next hwf s.arrive
      exact ⟨_, by rw [step_of_fetch hhost hl hb hw hi, ht]; rfl⟩
    · exact ⟨_, step_of_idle hhost hrun⟩

end

/-- Settles O48: every other turn has a next state. -/
theorem onlyStops : Obligations.OnlyStops := by
  intro s h
  rcases h.step_outcome with ⟨t, ht⟩ | ⟨ht, hl, hkey⟩ | ⟨ht, hd, hhost⟩ <;> rw [ht]
  · exact ⟨fun r hr => (nomatch hr), fun r hr => (nomatch hr)⟩
  · exact ⟨fun r hr => (nomatch hr), fun r hr => .inl ⟨by cases hr; rfl, hl, hkey⟩⟩
  · exact ⟨fun r hr => (nomatch hr), fun r hr => .inr ⟨by cases hr; rfl, hd, hhost⟩⟩

end Sys2Proof.Machine
end

section
/-! PROOFS. What the host reads and writes by register number (R22, R23, R35), and the configuration lookup
with attach (R250, R253). -/

namespace Sys2Proof.Machine

section
variable {s t : State}

/-! ## Reading a register -/

/-- The read of a written register changes nothing (R22). -/
theorem hostAccess_read_written {n : Nat} {r : HostReg} (hl : s.live = true) (hr : HostReg.ofNum n = some r)
    (hw : s.unwritten r = false) : hostAccess (.read n) s = .next { s with readData := some (n, readReg s r) } := by
  simp [hostAccess_read hl, hostRead, hr, State.reading, hw]

theorem statusWord_flags (fault busy : Bool) (code : BitVec 3) :
    (0#27 ++ BitVec.ofBool fault ++ BitVec.ofBool busy ++ code).getLsbD 3 = busy
      ∧ (0#27 ++ BitVec.ofBool fault ++ BitVec.ofBool busy ++ code).getLsbD 4 = fault := by
  revert fault busy code
  decide

theorem laneNumber_code (lanes : LaneCount) : (BitVec.ofNat 3 (laneNumber lanes)).toNat = laneNumber lanes := by
  cases lanes <;> rfl

end

/-- Settles O16: each register's word is laid out field by field, and none of them is ever unwritten. -/
theorem statusReads : Obligations.StatusReads := by
  intro s hl
  have hread := fun n r hr hw => hostAccess_read_written (s := s) (n := n) (r := r) hl hr hw
  refine ⟨hread 0x00 .cmd rfl rfl, ⟨_, hread 0x01 .status rfl rfl, ?_, ?_, ?_, ?_⟩, ⟨_, hread 0x02 .result rfl rfl, ?_, ?_⟩,
    ⟨_, hread 0x03 .warn rfl rfl, ?_, ?_⟩, ⟨_, hread 0x04 .recIdx rfl rfl, ?_, ?_⟩, ⟨_, hread 0x05 .cfgNrec rfl rfl, ?_, ?_⟩,
    ⟨_, hread 0x06 .cfgLink rfl rfl, ?_, ?_, ?_, ?_⟩⟩
  · exact BitVec.extractLsb'_append_eq_right
  · exact (statusWord_flags _ _ _).1
  · exact (statusWord_flags _ _ _).2
  · exact (BitVec.extractLsb'_append_eq_of_le (by decide)).trans
      ((BitVec.extractLsb'_append_eq_of_le (by decide)).trans BitVec.extractLsb'_append_eq_left)
  · exact BitVec.extractLsb'_append_eq_right
  · exact BitVec.extractLsb'_append_eq_left
  · exact BitVec.extractLsb'_append_eq_right
  · exact BitVec.extractLsb'_append_eq_left
  · exact BitVec.extractLsb'_append_eq_right
  · exact BitVec.extractLsb'_append_eq_left
  · exact BitVec.extractLsb'_append_eq_right
  · exact BitVec.extractLsb'_append_eq_left
  · exact (congrArg BitVec.toNat BitVec.extractLsb'_append_eq_right).trans (laneNumber_code _)
  · exact (BitVec.extractLsb'_append_eq_of_le (by decide)).trans BitVec.extractLsb'_append_eq_right
  · exact (BitVec.extractLsb'_append_eq_of_le (by decide)).trans
      ((BitVec.extractLsb'_append_eq_of_le (by decide)).trans BitVec.extractLsb'_append_eq_right)
  · exact (BitVec.extractLsb'_append_eq_of_le (by decide)).trans
      ((BitVec.extractLsb'_append_eq_of_le (by decide)).trans BitVec.extractLsb'_append_eq_left)

section
variable {s t : State}

/-! ## The MO and DI registers -/

/-- A register whose word and mark two banks agree on is read the same with either. -/
theorem reading_with_bank (s : State) (b : ModeBank) (n : Nat) (r : HostReg)
    (h : ∀ q, r = .bank q → b.get q = s.bank.get q) :
    ({ s with bank := b } : State).reading n r = { s.reading n r with bank := b } := by
  cases r with
  | bank q => simp [State.reading, State.unwritten, readReg, h q rfl]
  | _ => rfl

/-- A read gives what the write to its register stored (R35, R38). -/
theorem hostAccess_read_own_write (hl : s.live = true) (v : HostWord) (r : BankReg) :
    hostAccess (.read r.num) { s with bank := s.bank.set v r }
      = .next { s with bank := s.bank.set v r, readData := some (r.num, v) } := by
  have hw : ({ s with bank := s.bank.set v r } : State).unwritten (.bank r) = false := by simp [State.unwritten]
  rw [hostAccess_read_written (s := { s with bank := s.bank.set v r }) hl (ofNum_num r) hw]
  simp [readReg]

/-- A read of another number gives what it gave before the write (R35). -/
theorem hostRead_other_write {m : Nat} {r : BankReg} (v : HostWord) (hm : m ≠ r.num) (ht : hostRead m s = .next t) :
    hostRead m { s with bank := s.bank.set v r } = .next { t with bank := s.bank.set v r } := by
  unfold hostRead at ht ⊢
  split at ht
  · cases ht
    rfl
  · rename_i q hq
    cases ht
    refine congrArg _ (reading_with_bank s _ m q fun q' hq' => ?_)
    subst hq'
    refine ModeBank.get_set_other _ _ _ _ fun hqr => hm ?_
    rw [ofNum_eq_bank.mp hq, hqr]

theorem exec_getModes_ok (hl : s.live = true) (hb : s.busy = false) (ha : s.draw.alloc = .ok) :
    exec .getModes s = .next s.modesDelivered := by
  simp [exec, execGetModes, State.accept, hl, hb, ha, precondition]

end

/-- Settles O17: a write sets its own register of the bank, and each number is that of its register. -/
theorem bankWriteRead : Obligations.BankWriteRead := by
  refine ⟨fun s n v hl hlo hhi => ?_, fun s v hl p hp => ?_, fun s hl hb ha => ?_⟩
  · obtain ⟨r, hr⟩ := exists_bank_of_range hlo hhi
    obtain rfl := ofNum_eq_bank.mp hr
    refine ⟨s.bank.set v r, ?_, ?_, fun m t hm ht => ?_⟩
    · rw [hostAccess_write hl]
      exact hostWrite_bank r v s
    · exact hostAccess_read_own_write hl v r
    · rw [hostAccess_read hl] at ht
      rw [hostAccess_read (s := { s with bank := s.bank.set v r }) hl]
      exact hostRead_other_write v hm ht
  · simp only [List.mem_cons, List.not_mem_nil, or_false] at hp
    rw [hostAccess_write hl]
    rcases hp with rfl | rfl | rfl | rfl | rfl | rfl | rfl | rfl | rfl | rfl | rfl | rfl | rfl | rfl | rfl | rfl <;> rfl
  · refine ⟨s.modesDelivered, exec_getModes_ok hl hb ha, fun p hp => ?_⟩
    simp only [List.mem_cons, List.not_mem_nil, or_false] at hp
    rw [hostAccess_read (s := s.modesDelivered) hl]
    rcases hp with rfl | rfl | rfl | rfl | rfl | rfl | rfl | rfl | rfl | rfl | rfl | rfl | rfl | rfl | rfl | rfl <;> rfl

/-! ## Attach -/

section
variable {registry : List (CompatKey × PanelConfig)} {key : CompatKey}

theorem lookup_eq_none : lookup registry key = none ↔ ∀ c, (key, c) ∉ registry := by
  simp only [lookup, Option.map_eq_none_iff, List.find?_eq_none, decide_eq_true_eq]
  exact ⟨fun h c hc => h (key, c) hc rfl, fun h e he hk => h e.2 (by rw [← hk]; exact he)⟩

/-- What the lookup finds is registered under the key itself (R253). -/
theorem mem_of_lookup {c : PanelConfig} (h : lookup registry key = some c) : (key, c) ∈ registry := by
  obtain ⟨⟨k, d⟩, he, rfl⟩ := Option.map_eq_some_iff.mp h
  obtain rfl : k = key := by simpa using List.find?_some he
  exact List.mem_of_find?_eq_some he

theorem lookup_of_unique {c : PanelConfig} (hmem : (key, c) ∈ registry) (huniq : ∀ d, (key, d) ∈ registry → d = c) :
    lookup registry key = some c := by
  cases h : lookup registry key with
  | none => exact absurd hmem (lookup_eq_none.mp h c)
  | some d => rw [huniq d (mem_of_lookup h)]

end

/-- Settles O13: the lookup finds what is registered, and attach creates a block at the values of R39 from it. -/
theorem attachFromRegistry : Obligations.Attach := by
  refine ⟨fun _ _ _ => lookup_of_unique, fun _ _ => lookup_eq_none, ?_, fun s key hl hk => ?_, fun s key c hl hk => ?_⟩
  · exact lookup_of_unique (List.mem_singleton.mpr rfl) fun d hd => (Prod.mk.inj (List.mem_singleton.mp hd)).2
  · exact ⟨_, hostAccess_attach_notFound hl hk, hl, rfl, rfl, rfl, rfl, rfl⟩
  · refine ⟨s.create c, hostAccess_attach_found hl hk, rfl, rfl, rfl, rfl, ?_, rfl, rfl, rfl, fun r => ?_, rfl, rfl, rfl, rfl,
      rfl, rfl, rfl, rfl, ?_⟩
    · simp [State.reset]
    · exact ModeBank.unwritten_get_written r
    · simp [State.reset]

end Sys2Proof.Machine
end

section
/-! PROOFS. RAIL and REPLAY by their answers (R152, R160), the ill-formed SETST, the turns by their decoded word, and the values
after reset (R39). -/

namespace Sys2Proof.Machine

section
variable {s t : State}

/-! ## When the request of a micro-op was issued -/

theorem State.requesting_iff : s.requesting = true ↔ ∃ req ts, s.phase = .awaiting req ts := by
  unfold State.requesting
  cases s.phase <;> simp

theorem State.IssuedAt.issueTime_eq {ts : Nat} (h : s.IssuedAt ts) : s.issueTime = ts := by
  rcases h with ⟨req, hp⟩ | ⟨hr, rfl⟩
  · simp [State.issueTime, hp]
  · unfold State.issueTime
    unfold State.requesting at hr
    split <;> simp_all

/-- A micro-op that has issued nothing yet issues its request now. -/
theorem phase_request_of_not_requesting (h : s.requesting = false) (req : Request) :
    s.phase.request req s.now = .awaiting req s.now := by
  unfold State.requesting at h
  cases hp : s.phase <;> simp_all

theorem issue_of_requesting (h : s.requesting = true) (req : Request) : s.issue req = s := by
  obtain ⟨q, ts, hp⟩ := State.requesting_iff.mp h
  exact issue_of_awaiting hp req

theorem issueRail_of_requesting (h : s.requesting = true) (en : Bool) : s.issueRail en = s := by
  obtain ⟨q, ts, hp⟩ := State.requesting_iff.mp h
  exact issueRail_of_awaiting hp en

theorem decodeUop_rail (fatal en : Bool) :
    decodeUop (0x1#4 ++ 0#10 ++ BitVec.ofBool fatal ++ BitVec.ofBool en) = .ok (.rail fatal en) := by
  cases fatal <;> cases en <;> decide

end

/-- Settles O29: RAIL issues its request once, and each answer has its effect. -/
theorem railMicroOp : Obligations.RailMicroOp := by
  intro s fatal en op ts hop hts
  refine ⟨decodeUop_rail fatal en, ?_⟩
  obtain ⟨t, ht⟩ : ∃ t, exec (.rail fatal en) s = .next t := exec_next rfl s
  have hissue : s.issueTime = ts := hts.issueTime_eq
  refine ⟨t, ht, ?_⟩
  rcases rail_cases s t fatal en ht with ⟨hr, rfl⟩ | ⟨hr, rfl⟩ | ⟨hr, rfl, rfl⟩ | ⟨hr, rfl, rfl⟩
  · exact ⟨rfl, fun _ hq => ⟨phase_request_of_not_requesting hq _, rfl, rfl, rfl, rfl⟩,
      fun _ hq => issueRail_of_requesting hq en, by simp [hr], by simp [hr], by simp [hr]⟩
  · simp [hr, RailReq.ofEn, hissue]
  · simp [hr, RailReq.ofEn, hissue, hop]
  · simp [hr, RailReq.ofEn, hissue]

/-- Settles O32: REPLAY's three ways to go on, a record's with each answer. -/
theorem replayMicroOp : Obligations.ReplayMicroOp := by
  intro s op ts hop hts
  have hissue : s.issueTime = ts := hts.issueTime_eq
  refine ⟨by decide, fun hp => execReplay_begins hp, fun hp hlt => ?_, fun hp hge => execReplay_ends hp hge⟩
  refine ⟨_, _, _, memRead_of_lt (by omega), memRead_of_lt (by omega), execReplay_record hp hlt, ?_⟩
  generalize Memory.read s.cfg.table (2 * s.ri) = b0
  generalize Memory.read s.cfg.table (2 * s.ri + 1) = b1
  rcases replayRecord_cases s b0 b1 with ⟨hr, heq⟩ | ⟨hr, heq⟩ | ⟨hr, heq⟩ <;> rw [heq]
  · refine ⟨rfl, rfl, fun _ hq => ?_, fun _ hq => issue_of_requesting hq _, by simp [hr], by simp [hr]⟩
    rw [State.issue, phase_request_of_not_requesting hq]
  · simp [hr, hissue, -BitVec.toNat_ofNat, recIdx_count hlt]
  · simp [hr, hissue, hop]

/-- Settles O35: SETST has no state to write. -/
theorem illegalStateFaults : Obligations.IllegalStateFaults := by
  intro s c hc
  have hnone : LifeState.ofCode c = none := by
    revert c
    decide
  simp [exec, execSetst, hnone]

/-- Settles O40: the host's turn is its access, and the sequencer's turn the decoded micro-op. -/
theorem stepRunsDecoded : Obligations.StepRunsDecoded := by
  have hafter : ∀ o : Host.Outcome State Fault Refusal, afterTurn o = match o with
      | .next t => .next t.settleDetach
      | .fault r => .fault r
      | .refused r => .refused r := fun o => by cases o <;> rfl
  refine ⟨fun s v i hhost hl hv => ?_, fun s w i hhost hl hb hw hi => ?_, fun s a ha => ?_⟩
  · have hexec : hostAccess (.write 0x00 v) s.arrive = exec i s.arrive := by
      rw [hostAccess_write (s := s.arrive) hl]
      simp [hostWrite, HostReg.ofNum, hv]
    rw [step_of_access hhost, hexec]
    exact hafter _
  · rw [step_of_fetch hhost hl hb hw hi]
    exact hafter _
  · rw [step_of_access ha]
    exact hafter _

/-- Settles O11: the values of R39, and the mark of a read before the first write. -/
theorem resetRegisters : Obligations.ResetRegisters := by
  refine ⟨rfl, rfl, rfl, rfl, rfl, rfl, rfl, rfl, rfl, ModeBank.unwritten_get_written, fun n ⟨hlo, hhi⟩ => ?_, ?_,
    rfl, rfl, rfl, rfl, rfl, rfl, rfl, rfl⟩
  · obtain ⟨r, hr⟩ := exists_bank_of_range hlo hhi
    refine ⟨State.reset.reading n (.bank r), ?_, .inr ?_⟩
    · rw [hostAccess_read rfl, hostRead, hr]
    · simp [State.unwritten, State.reset]
  · simp [State.reset]

end Sys2Proof.Machine
end

section
/-! PROOFS. The memory of the block (20_memory.md): the frame of the host's commands (R58, R110), the sequencer's turns with the
fixed ROM (R51, R90), and the replay, which the table determines (R65). -/

namespace Sys2Proof.Machine

/-! ## The frame of the host's commands -/

section
variable {s t : State}

theorem exists_op_of_isHost {i : Instr} (hi : i.isHost = true) : ∃ op : HostOp, i = op.instr := by
  cases i with
  | prepare => exact ⟨.prepare, rfl⟩
  | enable => exact ⟨.enable, rfl⟩
  | disable => exact ⟨.disable, rfl⟩
  | unprepare => exact ⟨.unprepare, rfl⟩
  | getModes => exact ⟨.getModes, rfl⟩
  | _ => cases hi

@[simp] theorem instr_eq_getModes {op : HostOp} : op.instr = .getModes ↔ op = .getModes := by
  cases op <;> simp [HostOp.instr]

/-- Everything a command can do, on a dead, a busy and an idle block (R110, R223, R224). -/
theorem exec_instr_cases {op : HostOp} (h : exec op.instr s = .next t) :
    (s.live = false ∧ t = s) ∨ (s.live = true ∧ s.busy = true ∧ t = s.violate)
      ∨ (s.live = true ∧ s.busy = false ∧ CommandEffect s op t) := by
  rw [exec_instr] at h
  rcases accept_cases s t op _ h with hdead | hbusy | ⟨hl, hb, hp, rfl⟩ | ⟨hl, hb, hp, rfl⟩
  · exact .inl hdead
  · exact .inr (.inl hbusy)
  · exact .inr (.inr ⟨hl, hb, .refused op hp⟩)
  · exact .inr (.inr ⟨hl, hb, performEffect op hp⟩)

end

/-- Settles O28: a dead block ignores a command, a busy one only marks the violation, and each effect on an idle one writes the
registers of its own rule. -/
theorem hostInstrFrame : Obligations.HostInstrFrame := by
  intro i s t hi h
  obtain ⟨op, rfl⟩ := exists_op_of_isHost hi
  rcases exec_instr_cases h with ⟨-, rfl⟩ | ⟨-, hb, rfl⟩ | ⟨-, hb, he⟩
  · simp
  · simp [hb]
  · cases he with
    | started _ _ hop => simp [hb, hop]
    | refused | noop | delivered | unallocated => simp [hb, HostOp.instr]

/-! ## The sequencer's turns -/

/-- Settles O47: the only stops are those of a host access. -/
theorem sequencerNeverStops : Obligations.SequencerNeverStops := by
  intro s h hhost
  rcases h.step_outcome with hnext | ⟨-, -, key, hkey⟩ | ⟨-, -, hdetach⟩
  · exact hnext
  · cases hhost.symm.trans hkey
  · cases hhost.symm.trans hdetach

/-! ## The replay is determined by the table -/

theorem length_writesOk (c : PanelConfig) (k : Nat) : (writesOk c k).length = k := by
  induction k with
  | zero => rfl
  | succ k ih => simp [writesOk, ih]

section
variable {s : State}

/-- The newest events of a running replay are the writes of the records before REC_IDX (R161). -/
theorem State.Replayed.take_trace (h : s.Replayed) (hrun : s.Replaying) :
    (s.trace.map (·.kind)).take s.recIdx.toNat = writesOk s.cfg s.recIdx.toNat := by
  obtain ⟨hri, older, htrace⟩ := h.loop hrun
  rw [htrace, hri]
  exact List.take_left' (length_writesOk _ _)

/-- A waiting detach adds nothing to a turn that leaves an operation running (R252). -/
theorem afterTurn_next_busy (hb : s.busy = true) : afterTurn (.next s) = .next s :=
  congrArg _ (settleDetach_busy s hb)

/-- The sequencer's turn of a running replay is REPLAY's (R90, R150). -/
theorem State.Sequenced.step_replaying (hs : s.Sequenced) (hrun : s.Replaying) (hhost : s.nextInput.host = none) :
    step s = afterTurn (execReplay s.arrive) := by
  obtain ⟨hl, hb, hop, hk, -⟩ := hrun
  have hw : s.fetch = some 0x4000#16 := by
    simp [State.fetch, hop, hk, hs.rom, microProgram, MicroRom.fixed]
  exact step_of_fetch hhost hl hb hw decodeUop_4000

/-- A record's write that is answered Ok: its event, and the next record (R160). -/
theorem State.Replayed.step_record (h : s.Replayed) (hs : s.Sequenced) (hrun : s.Replaying)
    (hhost : s.nextInput.host = none) (hresp : s.nextInput.resp = some .ok) (hlt : s.recIdx.toNat < s.cfg.nRec.toNat) :
    ∃ t, step s = .next t ∧ t.upc = 1 ∧ t.recIdx = BitVec.ofNat 16 (s.recIdx.toNat + 1)
      ∧ t.trace.map (·.kind) =
        .write s.recIdx.toNat (Memory.read s.cfg.table (2 * s.recIdx.toNat))
          (Memory.read s.cfg.table (2 * s.recIdx.toNat + 1)) .ok :: s.trace.map (·.kind) := by
  obtain ⟨hri, -⟩ := h.loop hrun
  have hstep := hs.step_replaying hrun hhost
  obtain ⟨-, hb, -, hk, hp⟩ := hrun
  rw [← hri] at hlt ⊢
  rw [execReplay_record (s := s.arrive) hp hlt] at hstep
  rcases replayRecord_cases s.arrive _ _ with ⟨hr, -⟩ | ⟨-, heq⟩ | ⟨hr, -⟩
  · cases hresp.symm.trans hr
  · rw [heq, afterTurn_next_busy (by exact hb)] at hstep
    exact ⟨_, hstep, hk, rfl, rfl⟩
  · cases hresp.symm.trans hr

/-- Past the last record REPLAY completes and emits nothing (R160). -/
theorem State.Replayed.step_past_records (h : s.Replayed) (hs : s.Sequenced) (hrun : s.Replaying)
    (hhost : s.nextInput.host = none) (hge : s.cfg.nRec.toNat ≤ s.recIdx.toNat) :
    ∃ t, step s = .next t ∧ t.upc = 2 ∧ t.recIdx = s.recIdx ∧ t.trace = s.trace := by
  obtain ⟨hri, -⟩ := h.loop hrun
  have hstep := hs.step_replaying hrun hhost
  obtain ⟨-, hb, -, hk, hp⟩ := hrun
  rw [execReplay_ends (s := s.arrive) hp (hri ▸ hge), afterTurn_next_busy (by exact hb)] at hstep
  exact ⟨_, hstep, congrArg (· + 1) hk, rfl, rfl⟩

end

/-- Settles O59: REC_IDX and the table give the record a replay writes, and with it all the records it has written. -/
theorem replayDeterministic : Obligations.ReplayDeterministic := by
  intro s u hs hu hsr hur hsrun hurun hcfg hrec hshost huhost hsresp huresp
  have htake : (s.trace.map (·.kind)).take s.recIdx.toNat = (u.trace.map (·.kind)).take s.recIdx.toNat := by
    rw [hsr.take_trace hsrun, hcfg, hrec, hur.take_trace hurun]
  rcases Nat.lt_or_ge s.recIdx.toNat s.cfg.nRec.toNat with hlt | hge
  · obtain ⟨s', hs', hsupc, hsrec, hstrace⟩ := hsr.step_record hs hsrun hshost hsresp hlt
    obtain ⟨u', hu', huupc, hurec, hutrace⟩ := hur.step_record hu hurun huhost huresp (hcfg ▸ hrec ▸ hlt)
    rw [← hcfg, ← hrec] at hutrace
    rw [← hrec] at hurec
    refine ⟨s', u', hs', hu', hsrec.trans hurec.symm, hsupc.trans huupc.symm, fun _ => ⟨?_, ?_, ?_⟩, fun hge => ?_⟩
    · rw [hsrec, recIdx_count hlt]
    · exact ⟨_, _, tableRead_of_lt s.cfg _ hlt, hstrace, hutrace⟩
    · rw [hstrace, hutrace, List.take_succ_cons, List.take_succ_cons, htake]
    · omega
  · obtain ⟨s', hs', hsupc, hsrec, hstrace⟩ := hsr.step_past_records hs hsrun hshost hge
    obtain ⟨u', hu', huupc, hurec, hutrace⟩ := hur.step_past_records hu hurun huhost (hcfg ▸ hrec ▸ hge)
    refine ⟨s', u', hs', hu', by rw [hsrec, hurec, hrec], hsupc.trans huupc.symm, fun hlt => by omega,
      fun _ => ⟨hsupc, hstrace, hutrace, ?_⟩⟩
    rw [hstrace, hutrace, htake]

end Sys2Proof.Machine
end

section
/-! PROOFS. The encoding (30_encoding.md): the two decoders class by class, words and instructions each way (R81 to R91), the
fixed programs (R90), the host's lines (R94, R95), and the micro-ops WAIT and DCS (R156, R163). -/

namespace Sys2Proof.Machine

/-! ## The host's words (R81) -/

/-- A host word decodes to the operation whose OP it holds below 29 zero bits. -/
theorem decodeHost_eq_instr {w : HostWord} {op : HostOp} :
    decodeHost w = .ok op.instr ↔ w.extractLsb' 3 29 = 0 ∧ w.extractLsb' 0 3 = op.code := by
  unfold decodeHost
  generalize w.extractLsb' 0 3 = c
  by_cases hz : w.extractLsb' 3 29 = 0
  · rw [if_pos hz, and_iff_right hz]
    revert c
    cases op <;> decide
  · rw [if_neg hz]
    exact ⟨nofun, fun h => absurd h.1 hz⟩

theorem word_fields (op : HostOp) : op.word.extractLsb' 3 29 = 0 ∧ op.word.extractLsb' 0 3 = op.code :=
  ⟨BitVec.extractLsb'_append_eq_left, BitVec.extractLsb'_append_eq_right⟩

theorem decodeHost_word (op : HostOp) : decodeHost op.word = .ok op.instr :=
  decodeHost_eq_instr.mpr (word_fields op)

theorem encode_instr (op : HostOp) : encode op.instr = .host op.word := by
  cases op <;> rfl

/-- OP and the reserved bits are the whole word. -/
theorem eq_word_of_fields {w : HostWord} {op : HostOp} (hz : w.extractLsb' 3 29 = 0) (hop : w.extractLsb' 0 3 = op.code) :
    w = op.word := by
  calc w = w.extractLsb' 3 29 ++ w.extractLsb' 0 3 := (BitVec.extractLsb'_append_extractLsb' (w := 29) (len := 3)).symm
    _ = op.word := by rw [hz, hop]; rfl

/-- Settles O5: the host operations are the five values of OP, and no host word decodes to a micro-op. -/
theorem hostCommandDecode : Obligations.HostCommandDecode := by
  intro w i
  cases i with
  | prepare => exact decodeHost_eq_instr (op := .prepare)
  | enable => exact decodeHost_eq_instr (op := .enable)
  | disable => exact decodeHost_eq_instr (op := .disable)
  | unprepare => exact decodeHost_eq_instr (op := .unprepare)
  | getModes => exact decodeHost_eq_instr (op := .getModes)
  | _ =>
    refine ⟨fun hd => ?_, fun hf => hf.2.elim⟩
    obtain ⟨op, hop⟩ := decodeHost_instr hd
    cases op <;> cases hop

/-- Settles O10: the word of an operation holds OP alone, and the expansions are those of R95. -/
theorem hostNotation : Obligations.HostNotation := by
  refine ⟨fun op => ?_, rfl, rfl, rfl⟩
  obtain ⟨hz, hop⟩ := word_fields op
  exact ⟨hop, hz, decodeHost_word op⟩

/-! ## The micro-op decoder, class by class (R87) -/

section
variable {w : UopWord}

theorem decodeUop_class0 (h : w.extractLsb' 12 4 = 0x0#4) :
    decodeUop w = if w.extractLsb' 0 12 = 0 then .ok .endProgram else .error .reservedBits := by
  simp [decodeUop, h]

theorem decodeUop_class1 (h : w.extractLsb' 12 4 = 0x1#4) :
    decodeUop w = if w.extractLsb' 2 10 = 0 then .ok (.rail (w.getLsbD 1) (w.getLsbD 0)) else .error .reservedBits := by
  simp [decodeUop, h]

theorem decodeUop_class2 (h : w.extractLsb' 12 4 = 0x2#4) :
    decodeUop w = if w.extractLsb' 1 11 = 0 then .ok (.rst (Level.ofBit (w.getLsbD 0))) else .error .reservedBits := by
  simp [decodeUop, h]

theorem decodeUop_class3 (h : w.extractLsb' 12 4 = 0x3#4) : decodeUop w = .ok (.wait (w.extractLsb' 0 12)) := by
  simp [decodeUop, h]

theorem decodeUop_class4 (h : w.extractLsb' 12 4 = 0x4#4) :
    decodeUop w = if w.extractLsb' 0 12 = 0 then .ok .replay else .error .reservedBits := by
  simp [decodeUop, h]

theorem decodeUop_class5 (h : w.extractLsb' 12 4 = 0x5#4) :
    decodeUop w = if w.extractLsb' 10 2 = 0 then dcsOfSel (w.extractLsb' 0 8) (w.extractLsb' 8 2)
      else .error .reservedBits := by
  simp [decodeUop, h]

theorem decodeUop_class6 (h : w.extractLsb' 12 4 = 0x6#4) :
    decodeUop w = if w.extractLsb' 3 9 = 0 then
        if (w.extractLsb' 0 3).toNat ≤ 4 then .ok (.setst (w.extractLsb' 0 3)) else .error .badStateCode
      else .error .reservedBits := by
  simp [decodeUop, h]

theorem decodeUop_reservedClass (h : 7 ≤ (w.extractLsb' 12 4).toNat) : decodeUop w = .error .reservedClass := by
  have hne : ∀ c : BitVec 4, c.toNat < 7 → w.extractLsb' 12 4 ≠ c := by
    rintro c hc rfl
    omega
  simp [decodeUop, hne]

/-- The eight cases of CLASS. -/
theorem uopClass_cases (c : BitVec 4) :
    c = 0x0#4 ∨ c = 0x1#4 ∨ c = 0x2#4 ∨ c = 0x3#4 ∨ c = 0x4#4 ∨ c = 0x5#4 ∨ c = 0x6#4 ∨ 7 ≤ c.toNat := by
  revert c
  decide

end

/-- The selectors that name a DCS micro-op (R88). -/
theorem dcsOfSel_eq_ok {sel : BitVec 8} {widx : BitVec 2} {i : Instr} :
    dcsOfSel sel widx = .ok i ↔ ∃ cmd : DcsCmd, sel = cmd.sel ∧ cmd.microOp widx = i := by
  refine ⟨fun h => ?_, ?_⟩
  · unfold dcsOfSel at h
    split_ifs at h <;> cases h
    · exact ⟨.enterSleep, ‹_›, rfl⟩
    · exact ⟨.exitSleep, ‹_›, rfl⟩
    · exact ⟨.setDisplayOff, ‹_›, rfl⟩
    · exact ⟨.setDisplayOn, ‹_›, rfl⟩
  · rintro ⟨cmd, rfl, rfl⟩
    cases cmd <;> rfl

/-- Any other selector names none (R91). -/
theorem dcsOfSel_eq_error {sel : BitVec 8} {widx : BitVec 2} :
    (∃ e, dcsOfSel sel widx = .error e) ↔ sel ∉ [0x10#8, 0x11#8, 0x28#8, 0x29#8] := by
  unfold dcsOfSel
  split_ifs <;> simp_all

/-- A family's word decodes when it passes the check that guards it. -/
theorem ite_ok_eq_ok {p : Prop} [Decidable p] {e : DecodeError} {i j : Instr} :
    (if p then .ok i else .error e : Except DecodeError Instr) = .ok j ↔ p ∧ i = j := by
  split_ifs with h <;> simp [h]

/-- The fields of the word of a DCS micro-op (R85, R88). -/
def IsDcsWord (cmd : DcsCmd) (widx : BitVec 2) (w : UopWord) : Prop :=
  w.extractLsb' 12 4 = 0x5#4 ∧ w.extractLsb' 10 2 = 0 ∧ w.extractLsb' 0 8 = cmd.sel ∧ w.extractLsb' 8 2 = widx

theorem decodeUop_of_isDcsWord {cmd : DcsCmd} {widx : BitVec 2} {w : UopWord} (hw : IsDcsWord cmd widx w) :
    decodeUop w = .ok (cmd.microOp widx) := by
  obtain ⟨hc, hz, hsel, rfl⟩ := hw
  rw [decodeUop_class5 hc, if_pos hz, dcsOfSel_eq_ok]
  exact ⟨cmd, hsel, rfl⟩

theorem decodeUop_dcs (cmd : DcsCmd) (widx : BitVec 2) :
    decodeUop (encodeDcs cmd.sel widx) = .ok (cmd.microOp widx) := by
  cases cmd <;> revert widx <;> decide

/-- Settles O3: a word's class fixes its family, and the family's fields its operands. -/
theorem microOpDecode : Obligations.MicroOpDecode := by
  intro w i
  refine ⟨fun hd => ?_, fun hm => ?_⟩
  · rcases uopClass_cases (w.extractLsb' 12 4) with h | h | h | h | h | h | h | h
    · rw [decodeUop_class0 h] at hd
      obtain ⟨hz, rfl⟩ := ite_ok_eq_ok.mp hd
      exact ⟨h, hz⟩
    · rw [decodeUop_class1 h] at hd
      obtain ⟨hz, rfl⟩ := ite_ok_eq_ok.mp hd
      exact ⟨h, hz, rfl, rfl⟩
    · rw [decodeUop_class2 h] at hd
      obtain ⟨hz, rfl⟩ := ite_ok_eq_ok.mp hd
      exact ⟨h, hz, rfl⟩
    · rw [decodeUop_class3 h] at hd
      cases hd
      exact ⟨h, rfl⟩
    · rw [decodeUop_class4 h] at hd
      obtain ⟨hz, rfl⟩ := ite_ok_eq_ok.mp hd
      exact ⟨h, hz⟩
    · rw [decodeUop_class5 h] at hd
      split at hd
      · next hz =>
        obtain ⟨cmd, hsel, rfl⟩ := dcsOfSel_eq_ok.mp hd
        cases cmd <;> exact ⟨h, hz, hsel, rfl⟩
      · cases hd
    · rw [decodeUop_class6 h] at hd
      split at hd
      · next hz =>
        obtain ⟨hc, rfl⟩ := ite_ok_eq_ok.mp hd
        exact ⟨h, hz, rfl, hc⟩
      · cases hd
    · rw [decodeUop_reservedClass h] at hd
      cases hd
  · cases i with
    | prepare | enable | disable | unprepare | getModes => exact hm.elim
    | endProgram => rw [decodeUop_class0 hm.1, if_pos hm.2]
    | rail fatal en =>
      obtain ⟨h, hz, rfl, rfl⟩ := hm
      rw [decodeUop_class1 h, if_pos hz]
    | rst level =>
      obtain ⟨h, hz, rfl⟩ := hm
      rw [decodeUop_class2 h, if_pos hz, Level.ofBit]
    | wait ms =>
      obtain ⟨h, rfl⟩ := hm
      exact decodeUop_class3 h
    | replay => rw [decodeUop_class4 hm.1, if_pos hm.2]
    | dcsEnterSleep widx => exact decodeUop_of_isDcsWord (cmd := .enterSleep) hm
    | dcsExitSleep widx => exact decodeUop_of_isDcsWord (cmd := .exitSleep) hm
    | dcsDisplayOff widx => exact decodeUop_of_isDcsWord (cmd := .setDisplayOff) hm
    | dcsDisplayOn widx => exact decodeUop_of_isDcsWord (cmd := .setDisplayOn) hm
    | setst c =>
      obtain ⟨h, hz, rfl, hc⟩ := hm
      rw [decodeUop_class6 h, if_pos hz, if_pos hc]

/-! ## From instructions to words and back -/

theorem decodeUop_rst (level : Level) : decodeUop (0x2#4 ++ 0#11 ++ BitVec.ofBool level.bit) = .ok (.rst level) := by
  cases level <;> decide

theorem decodeUop_wait (ms : BitVec 12) : decodeUop (0x3#4 ++ ms) = .ok (.wait ms) := by
  rw [decodeUop_class3 BitVec.extractLsb'_append_eq_left, BitVec.extractLsb'_append_eq_right]

theorem decodeUop_setst {c : BitVec 3} (hc : c.toNat ≤ 4) : decodeUop (0x6#4 ++ 0#9 ++ c) = .ok (.setst c) := by
  revert c
  decide

/-- Settles O1: the host operations by OP, WAIT by its two fields, the other micro-ops by their few operands. -/
theorem decodeEncodeAgree : Obligations.DecodeEncodeAgree := by
  intro i hi
  cases i with
  | prepare => exact decodeHost_word .prepare
  | enable => exact decodeHost_word .enable
  | disable => exact decodeHost_word .disable
  | unprepare => exact decodeHost_word .unprepare
  | getModes => exact decodeHost_word .getModes
  | endProgram => exact decodeUop_0000
  | rail fatal en => exact decodeUop_rail fatal en
  | rst level => exact decodeUop_rst level
  | wait ms => exact decodeUop_wait ms
  | replay => exact decodeUop_4000
  | dcsEnterSleep widx => exact decodeUop_dcs .enterSleep widx
  | dcsExitSleep widx => exact decodeUop_dcs .exitSleep widx
  | dcsDisplayOff widx => exact decodeUop_dcs .setDisplayOff widx
  | dcsDisplayOn widx => exact decodeUop_dcs .setDisplayOn widx
  | setst c => exact decodeUop_setst (of_decide_eq_true hi)

theorem ofBool_getLsbD {n : Nat} (w : BitVec n) (k : Nat) : BitVec.ofBool (w.getLsbD k) = w.extractLsb' k 1 := by
  rw [BitVec.getLsbD_eq_extractLsb']
  generalize w.extractLsb' k 1 = b
  revert b
  decide

theorem bit_ofBit (b : Bool) : (Level.ofBit b).bit = b := by
  cases b <;> rfl

section
variable {w : UopWord}

/-- CLASS and ARG are the whole word. -/
theorem append_class_arg {c : BitVec 4} {arg : BitVec 12} (hc : w.extractLsb' 12 4 = c) (ha : w.extractLsb' 0 12 = arg) :
    c ++ arg = w := by
  rw [← hc, ← ha]
  exact BitVec.extractLsb'_append_extractLsb' (w := 4)

theorem encodeDcs_of_isDcsWord {cmd : DcsCmd} {widx : BitVec 2} (hw : IsDcsWord cmd widx w) :
    encodeDcs cmd.sel widx = w := by
  obtain ⟨hc, hz, hsel, rfl⟩ := hw
  simp only [encodeDcs, ← hc, ← hsel, ← show _ = 0#2 from hz, BitVec.extractLsb'_append_extractLsb'_eq_extractLsb',
    BitVec.extractLsb'_eq_self]

/-- A micro-op word has no bits but the fields its decoder reads (R85). -/
theorem encode_of_decodeUop {i : Instr} (h : decodeUop w = .ok i) : encode i = .uop w := by
  have hm := (microOpDecode w i).mp h
  cases i with
  | prepare | enable | disable | unprepare | getModes => exact hm.elim
  | endProgram => exact congrArg _ (append_class_arg hm.1 hm.2)
  | rail fatal en =>
    obtain ⟨hc, hz, rfl, rfl⟩ := hm
    simp only [encode, ofBool_getLsbD, ← hc, ← show _ = 0#10 from hz,
      BitVec.extractLsb'_append_extractLsb'_eq_extractLsb', BitVec.extractLsb'_eq_self]
  | rst level =>
    obtain ⟨hc, hz, hlevel⟩ := hm
    obtain rfl : level = Level.ofBit (w.getLsbD 0) := hlevel
    simp only [encode, bit_ofBit, ofBool_getLsbD, ← hc, ← show _ = 0#11 from hz,
      BitVec.extractLsb'_append_extractLsb'_eq_extractLsb', BitVec.extractLsb'_eq_self]
  | wait ms => exact congrArg _ (append_class_arg hm.1 hm.2)
  | replay => exact congrArg _ (append_class_arg hm.1 hm.2)
  | dcsEnterSleep widx => exact congrArg _ (encodeDcs_of_isDcsWord (cmd := .enterSleep) hm)
  | dcsExitSleep widx => exact congrArg _ (encodeDcs_of_isDcsWord (cmd := .exitSleep) hm)
  | dcsDisplayOff widx => exact congrArg _ (encodeDcs_of_isDcsWord (cmd := .setDisplayOff) hm)
  | dcsDisplayOn widx => exact congrArg _ (encodeDcs_of_isDcsWord (cmd := .setDisplayOn) hm)
  | setst c =>
    obtain ⟨hc, hz, rfl, -⟩ := hm
    simp only [encode, ← hc, ← show _ = 0#9 from hz, BitVec.extractLsb'_append_extractLsb'_eq_extractLsb',
      BitVec.extractLsb'_eq_self]

end

/-- Settles O2: a word is laid out from the fields that its decoder reads. -/
theorem encodeDecodeAgree : Obligations.EncodeDecodeAgree := by
  intro c i h
  cases c with
  | host w =>
    obtain ⟨op, rfl⟩ := decodeHost_instr h
    obtain ⟨hz, hop⟩ := decodeHost_eq_instr.mp h
    exact ⟨by cases op <;> rfl, by rw [encode_instr, eq_word_of_fields hz hop]⟩
  | uop w =>
    refine ⟨?_, encode_of_decodeUop h⟩
    have hm := (microOpDecode w i).mp h
    cases i with
    | setst c =>
      obtain ⟨-, -, -, hc⟩ := hm
      exact decide_eq_true hc
    | _ => rfl

/-! ## Illegal words (R91) -/

/-- A family's word is illegal when it fails the check that guards it. -/
theorem ite_ok_eq_error {p : Prop} [Decidable p] {e : DecodeError} {i : Instr} :
    (∃ e', (if p then .ok i else .error e : Except DecodeError Instr) = .error e') ↔ ¬ p := by
  split_ifs with h <;> simp [h]

/-- A turn of the sequencer at an illegal word is refused (R91, R150). -/
theorem step_of_illegal {s : State} {w : UopWord} {e : DecodeError} (hhost : s.nextInput.host = none) (hl : s.live = true)
    (hb : s.busy = true) (hw : s.fetch = some w) (he : decodeUop w = .error e) :
    step s = .refused (.illegalMicroOp w) := by
  have hw' : s.arrive.fetch = some w := hw
  simp [step, takeTurn, hhost, hl, hb, runMicroOp, hw', he, afterTurn]

/-- Every word of a fixed program is a micro-op (R90). -/
theorem decodeUop_fixed {op : HostOp} {w : UopWord} (h : w ∈ microProgram MicroRom.fixed op) :
    ∃ i, decodeUop w = .ok i := by
  obtain ⟨k, hk⟩ := List.mem_iff_getElem?.mp h
  rcases fixed_decodes op k with ⟨w', i, hw', hi, -⟩ | ⟨hnone, -⟩
  · obtain rfl : w = w' := Option.some.inj (hk.symm.trans hw')
    exact ⟨i, hi⟩
  · cases hk.symm.trans hnone

/-- Settles O4: in each class the check that the decoder makes is the one R91 names. -/
theorem illegalMicroOps : Obligations.IllegalMicroOps := by
  refine ⟨fun w => ?_, fun op w hw => decodeUop_fixed hw, fun s w e => step_of_illegal⟩
  rcases uopClass_cases (w.extractLsb' 12 4) with h | h | h | h | h | h | h | h
  · rw [decodeUop_class0 h, ite_ok_eq_error]
    simp [h]
  · rw [decodeUop_class1 h, ite_ok_eq_error]
    simp [h]
  · rw [decodeUop_class2 h, ite_ok_eq_error]
    simp [h]
  · simp [decodeUop_class3 h, h]
  · rw [decodeUop_class4 h, ite_ok_eq_error]
    simp [h]
  · rw [decodeUop_class5 h]
    split
    · next hz =>
      rw [dcsOfSel_eq_error]
      simp [h, show _ = 0#2 from hz]
    · next hz => simp [h, show ¬ _ = 0#2 from hz]
  · rw [decodeUop_class6 h]
    split
    · next hz =>
      rw [ite_ok_eq_error, Nat.not_le]
      simp [h, show _ = 0#9 from hz, Nat.lt_iff_add_one_le]
    · next hz => simp [h, show ¬ _ = 0#9 from hz]
  · exact ⟨fun _ => .inl h, fun _ => ⟨_, decodeUop_reservedClass h⟩⟩

/-! ## Samples, the fixed programs and the state codes (R82, R90) -/

/-- Settles O6: each family's word by its decoder. -/
theorem sampleWords : Obligations.SampleWords :=
  ⟨decodeHost_word .prepare, decodeHost_word .getModes, decodeUop_1003, decodeUop_2001, decodeUop_wait 4095#12,
    decodeUop_4000, decodeUop_5129, decodeUop_6004, decodeUop_0000⟩

/-- Settles O7: the ROM after reset is the fixed one, and its words decode one by one. -/
theorem fixedPrograms : Obligations.FixedPrograms := by
  refine ⟨rfl, rfl, rfl, rfl, rfl, ?_, ?_, ?_, ?_⟩
  · simp [State.reset, MicroRom.fixed, LifeState.code, decodeUop_1003, decodeUop_2000, decodeUop_3078, decodeUop_2001,
      decodeUop_6001, decodeUop_0000]
  · simp [State.reset, MicroRom.fixed, LifeState.code, decodeUop_300A, decodeUop_4000, decodeUop_6002, decodeUop_3078,
      decodeUop_5011, decodeUop_5129, decodeUop_6003, decodeUop_0000]
  · simp [State.reset, MicroRom.fixed, LifeState.code, decodeUop_5228, decodeUop_5310, decodeUop_6004, decodeUop_0000]
  · simp [State.reset, MicroRom.fixed, LifeState.code, decodeUop_2000, decodeUop_3078, decodeUop_1000, decodeUop_6000,
      decodeUop_0000]

theorem LifeState.ofCode_code (st : LifeState) : LifeState.ofCode st.code = some st := by
  cases st <;> rfl

/-- Settles O8: `ofCode` inverts `code`, and gives nothing for the three codes left over. -/
theorem stateCodes : Obligations.StateCodes := by
  refine ⟨rfl, rfl, rfl, rfl, rfl, fun c st => ⟨LifeState.code_of_ofCode, ?_⟩, by decide⟩
  rintro rfl
  exact st.ofCode_code

/-! ## WAIT and the DCS micro-ops (R156, R163) -/

section
variable {s : State}

theorem execWait_closed {ms : BitVec 12} (hg : s.now < s.beginWait.t0 + gateMicros ms) : execWait ms s = .next s.beginWait :=
  congrArg _ (if_neg (Nat.not_le.mpr hg))

theorem execWait_open {ms : BitVec 12} (hg : s.beginWait.t0 + gateMicros ms ≤ s.now) :
    execWait ms s = .next s.beginWait.complete :=
  congrArg _ (if_pos hg)

/-- WARN bit by bit after a DCS failure (R163). -/
theorem getLsbD_warnSet (warn : BitVec 4) (widx : BitVec 2) (k : Nat) :
    (warnSet warn widx).getLsbD k = (decide (k = widx.toNat) || warn.getLsbD k) := by
  have hw : widx.toNat < 4 := widx.isLt
  rw [warnSet, BitVec.getLsbD_or, ← BitVec.twoPow_eq, BitVec.getLsbD_twoPow, decide_eq_true hw, Bool.true_and, Bool.or_comm,
    decide_eq_decide.mpr eq_comm]

end

/-- Settles O31: T0 is what the WAIT's first step takes, and the gate is either passed or not yet. -/
theorem waitMicroOp : Obligations.WaitMicroOp := by
  intro s ms t0 hbegun hfresh
  have ht0 : s.beginWait.t0 = t0 := by
    rw [State.beginWait_t0]
    split
    · exact (hbegun ‹_›).symm
    · exact (hfresh ‹_›).symm
  have hbegin : s.beginWait = { s with t0 := t0, phase := .begun } := by
    rw [← ht0]
    rfl
  refine ⟨decodeUop_wait ms, fun hclosed => ?_, fun hopen => ?_⟩
  · exact (execWait_closed (ht0 ▸ hclosed)).trans (by rw [hbegin])
  · exact (execWait_open (ht0 ▸ hopen)).trans (by rw [hbegin]; rfl)

/-- Settles O33: one argument for the four commands, by the answer. -/
theorem dcsMicroOps : Obligations.DcsMicroOps := by
  intro s widx ts hts p hp
  obtain ⟨cmd, rfl⟩ : ∃ cmd : DcsCmd, p = (cmd.microOp widx, cmd, cmd.sel) := by
    simp only [List.mem_cons, List.not_mem_nil, or_false] at hp
    rcases hp with rfl | rfl | rfl | rfl
    · exact ⟨.enterSleep, rfl⟩
    · exact ⟨.exitSleep, rfl⟩
    · exact ⟨.setDisplayOff, rfl⟩
    · exact ⟨.setDisplayOn, rfl⟩
  have hissue : s.issueTime = ts := hts.issueTime_eq
  refine ⟨rfl, decodeUop_dcs cmd widx, _, exec_dcs cmd widx s, ?_⟩
  rcases dcs_cases s cmd widx with ⟨hr, heq⟩ | ⟨hr, heq⟩ | ⟨hr, heq⟩ <;> rw [heq]
  · refine ⟨rfl, rfl, rfl, fun _ hq => ?_, fun _ hq => issue_of_requesting hq _, by simp [hr], by simp [hr]⟩
    rw [State.issue, phase_request_of_not_requesting hq]
  · simp [hr, hissue]
  · simp [hr, hissue, getLsbD_warnSet]

end Sys2Proof.Machine
end

section
/-! PROOFS. The acceptance of a host command (40_lifecycle.md): its refusal, its start and the violation of a busy block (R110 to
R112, R131), and the ENABLE that aborts at a record (R122). -/

namespace Sys2Proof.Machine

section
variable {s : State} {op : HostOp}

/-! ## A command by its precondition -/

/-- A command to an idle block whose precondition fails is refused (R110, R111). -/
theorem exec_instr_refused (hl : s.live = true) (hb : s.busy = false) (hp : precondition op s.lifeState = false) :
    exec op.instr s = .next (s.refuseCommand op) := by
  simp [exec_instr, State.accept, hl, hb, hp]

/-- A command to an idle block whose precondition holds is performed (R110). -/
theorem exec_instr_performed (hl : s.live = true) (hb : s.busy = false) (hp : precondition op s.lifeState = true) :
    exec op.instr s = .next (op.perform s) := by
  simp [exec_instr, State.accept, hl, hb, hp]

/-- Outside Unpowered UNPREPARE runs its program, whatever the parameter says (R130, R131). -/
theorem perform_unprepare_powered (hlife : s.lifeState ≠ .unpowered) : HostOp.unprepare.perform s = s.start .unprepare :=
  if_neg fun ⟨hun, _⟩ => hlife hun

theorem perform_unprepare_noop (hlife : s.lifeState = .unpowered) (hn : s.cfg.unprepareWhenUnpowered = .noop) :
    HostOp.unprepare.perform s = s.unprepareNoop :=
  if_pos ⟨hlife, hn⟩

theorem perform_unprepare_reissue (hr : s.cfg.unprepareWhenUnpowered = .reissue) :
    HostOp.unprepare.perform s = s.start .unprepare :=
  if_neg fun ⟨_, hn⟩ => nomatch hr.symm.trans hn

end

/-- Settles O21: the violation of a busy block is all a command does. -/
theorem commandWhileBusy : Obligations.CommandWhileBusy := by
  intro i s hi hl hb
  obtain ⟨op, rfl⟩ := exists_op_of_isHost hi
  exact exec_instr_busy op hl hb

/-- Settles O22: a refusal writes RESULT and emits its two events, and an idle block rests, which it never does in Configured. -/
theorem stateErrorRefusal : Obligations.StateErrorRefusal :=
  ⟨fun op _ => by cases op <;> simp [precondition], fun _ _ => exec_instr_refused, fun _ h hl hb => (h.resting hl hb).1⟩

/-- Settles O23: the precondition holds, and performing the operation is entering its program. -/
theorem operationStarts : Obligations.OperationStarts := by
  rintro op s hl hb (⟨rfl, hlife⟩ | ⟨rfl, hlife⟩ | ⟨rfl, hlife⟩ | ⟨rfl, hlife⟩)
  · exact exec_instr_performed hl hb (decide_eq_true hlife)
  · exact exec_instr_performed hl hb (decide_eq_true hlife)
  · exact exec_instr_performed hl hb (decide_eq_true hlife)
  · rw [exec_instr_performed hl hb rfl, perform_unprepare_powered hlife]
    rfl

/-- Settles O24: UNPREPARE is performed in Unpowered too, as the parameter says. -/
theorem unprepareInUnpowered : Obligations.UnprepareInUnpowered := by
  intro s hl hb hlife
  have hexec : exec .unprepare s = .next (HostOp.unprepare.perform s) :=
    exec_instr_performed (op := .unprepare) hl hb rfl
  refine ⟨fun hn => ?_, fun hr => ?_⟩
  · rw [hexec, perform_unprepare_noop hlife hn]
    rfl
  · rw [hexec, perform_unprepare_reissue hr]
    rfl

/-! ## ENABLE's abort -/

section
variable {s : State}

/-- A record whose write fails raises TransportError (R160, R171). -/
theorem replayRecord_err (hr : s.draw.resp = some .err) (b0 b1 : Byte) :
    s.replayRecord b0 b1 = ((s.issue (.write s.ri b0 b1)).answered (.write s.ri b0 b1 .err)).raise .transportError := by
  simp [State.replayRecord, hr]

/-- While the replay runs STATE is Resetting (R90, R122). -/
theorem State.Sequenced.lifeState_of_replaying (h : s.Sequenced) (hrun : s.Replaying) : s.lifeState = .resetting := by
  obtain ⟨hl, hb, hop, hk, -⟩ := hrun
  obtain ⟨op, hop', hat⟩ := h.running hl hb
  obtain rfl : .enable = op := Option.some.inj (hop.symm.trans hop')
  obtain ⟨-, -, -, -, -, hlife⟩ := hat
  simpa [hk] using hlife

end

/-- Settles O58: the sequencer's turn is that of record REC_IDX, whose write raises; a detach that goes on then leaves what the
abort has written. -/
theorem enableAborts : Obligations.EnableAborts := by
  intro s hs h hrun hhost hresp hlt
  have hlife := hs.lifeState_of_replaying hrun
  have hstep := hs.step_replaying hrun hhost
  obtain ⟨hri, older, htrace⟩ := h.loop hrun
  obtain ⟨-, -, hop, -, hp⟩ := hrun
  rw [← hri] at hlt ⊢
  rw [execReplay_record (s := s.arrive) hp hlt, replayRecord_err hresp] at hstep
  refine ⟨_, older, hstep, ?_⟩
  simp only [settleDetach_result, settleDetach_lifeState, settleDetach_recIdx, settleDetach_trace]
  refine ⟨rfl, hlife, fun hd => ?_, rfl, ?_⟩
  · rw [settleDetach_not_detaching _ (by exact hd)]
    rfl
  · simp [hop, htrace]

end Sys2Proof.Machine
end

section
/-! PROOFS. The timing gates (R117, R133, R157, R260): each event a micro-op emits keeps the gate after the newest one, each
micro-op leaves behind it what the gate of the next one needs, and so every step keeps `State.Gated`. -/

namespace Sys2Proof.Machine

/-! ## The gate before an event -/

/-- An event `k` issued at `ts` keeps the gate after the newest event of the trace. -/
def GateOpen : List Event → EventKind → Nat → Prop
  | [], _, _ => True
  | e :: _, k, ts => e.tc + gateBetween e.kind k ≤ ts

/-- The kinds of event that a gate of R260 ends with. -/
def EventKind.isGated : EventKind → Bool
  | .rst .high | .state .resetting | .write _ _ _ _ | .state .configured | .dcs .exitSleep _ | .rail false _ => true
  | _ => false

theorem gateBetween_of_not_gated {k : EventKind} (h : k.isGated = false) (k' : EventKind) : gateBetween k' k = 0 := by
  unfold gateBetween
  split <;> simp_all [EventKind.isGated]

section
variable {trace : List Event} {k : EventKind} {ts tc now : Nat}

theorem GatesKept.cons (h : GatesKept trace) (hk : GateOpen trace k ts) : GatesKept (⟨k, ts, tc⟩ :: trace) := by
  cases trace with
  | nil => trivial
  | cons e older => exact ⟨hk, h⟩

/-- Where R261 asks for no gate the order of the trace is enough. -/
theorem GateOpen.of_not_gated (hk : k.isGated = false) (hts : lastTc trace ≤ ts) : GateOpen trace k ts := by
  cases trace with
  | nil => trivial
  | cons e older =>
    change e.tc + gateBetween e.kind k ≤ ts
    rw [gateBetween_of_not_gated hk]
    exact hts

theorem GatesKept.accept (h : GatesKept trace) (op : HostOp) (hnow : lastTc trace ≤ now) :
    GatesKept (⟨.accept op, now, now⟩ :: trace) :=
  h.cons (.of_not_gated rfl hnow)

theorem GatesKept.done (h : GatesKept trace) (op : Option HostOp) (r : ResultCode) (hnow : lastTc trace ≤ now) :
    GatesKept (doneEvent op r now ++ trace) := by
  cases op with
  | none => exact h
  | some op => exact h.cons (.of_not_gated rfl hnow)

end

section
variable {s t : State} {i : Instr} {op : HostOp} {k k' : EventKind} {us ts : Nat}

/-- A gate is open for an event issued after the micro-op at UPC could begin, once it has run its length. -/
theorem State.Newest.gateOpen (h : s.Newest k us) (hus : gateBetween k k' ≤ us) (hts : s.lastDone ≤ ts) :
    GateOpen s.trace k' ts := by
  obtain ⟨e, older, htrace, rfl, htc⟩ := h
  rw [htrace]
  change e.tc + gateBetween e.kind k' ≤ ts
  omega

/-- A record's write starts no gate to the event right after it: STATE(Configured) stands between it and the exit-sleep of G4. -/
theorem State.NewestIsWrite.gateOpen (h : s.NewestIsWrite) (hts : lastTc s.trace ≤ ts) : GateOpen s.trace k ts := by
  obtain ⟨e, older, i, b0, b1, htrace, hkind⟩ := h
  rw [htrace] at hts ⊢
  change e.tc + gateBetween e.kind k ≤ ts
  rw [hkind]
  exact hts

/-! ## The events of the fixed programs -/

theorem driveHigh_position {n : Nat} (h : programInstr op n = some (.rst .high)) : op = .prepare ∧ n = 3 := by
  unfold programInstr at h
  split at h <;> simp at h
  exact ⟨rfl, rfl⟩

theorem railOff_position {n : Nat} {fatal : Bool} (h : programInstr op n = some (.rail fatal false)) :
    op = .unprepare ∧ n = 2 := by
  unfold programInstr at h
  split at h <;> simp at h
  exact ⟨rfl, rfl⟩

theorem exitSleep_position {n : Nat} {widx : BitVec 2} (h : programInstr op n = some (.dcsExitSleep widx)) :
    op = .enable ∧ n = 4 := by
  unfold programInstr at h
  split at h <;> simp at h
  exact ⟨rfl, rfl⟩

/-- The release of the reset line keeps G1 (R117). -/
theorem State.GateAt.rst (h : s.GateAt op) {level : Level} (hi : programInstr op s.upc = some (.rst level))
    (hdone : s.lastDone ≤ ts) (hpast : lastTc s.trace ≤ ts) : GateOpen s.trace (.rst level) ts := by
  cases level with
  | low => exact .of_not_gated rfl hpast
  | high =>
    obtain ⟨rfl, hk⟩ := driveHigh_position hi
    obtain ⟨-, hlow, -, -⟩ := h
    exact (hlow hk).gateOpen le_rfl hdone

/-- SETST keeps the gates that end with a state: G2 for Resetting, and G3 for Configured after an empty table (R260). -/
theorem State.GateAt.setst (h : s.GateAt op) {c : BitVec 3} {st : LifeState}
    (hi : programInstr op s.upc = some (.setst c)) (hc : LifeState.ofCode c = some st) (hdone : s.lastDone ≤ ts)
    (hpast : lastTc s.trace ≤ ts) : GateOpen s.trace (.state st) ts := by
  rcases setst_position hi with ⟨rfl, hk, rfl⟩ | ⟨rfl, hk, rfl⟩ | ⟨-, -, rfl⟩ | ⟨-, -, rfl⟩ | ⟨-, -, rfl⟩ <;> cases hc
  · obtain ⟨-, -, -, hhigh⟩ := h
    exact (hhigh hk).gateOpen le_rfl hdone
  · obtain ⟨-, -, -, hreplayed, -, -⟩ := h
    rcases hreplayed hk with hacc | hwrite
    · exact hacc.gateOpen le_rfl hdone
    · exact hwrite.gateOpen hpast
  all_goals exact .of_not_gated rfl hpast

/-- The rail is switched off after G5 (R133). -/
theorem State.GateAt.rail (h : s.GateAt op) {fatal en : Bool} (r : Resp)
    (hi : programInstr op s.upc = some (.rail fatal en)) (hdone : s.lastDone ≤ ts) (hpast : lastTc s.trace ≤ ts) :
    GateOpen s.trace (.rail en r) ts := by
  cases en with
  | true => exact .of_not_gated rfl hpast
  | false =>
    obtain ⟨rfl, hk⟩ := railOff_position hi
    obtain ⟨-, hlow⟩ := h
    exact (hlow hk).gateOpen le_rfl hdone

/-- The panel leaves sleep after G4 (R260). -/
theorem State.GateAt.dcs (h : s.GateAt op) {cmd : DcsCmd} {widx : BitVec 2} (r : Resp)
    (hi : programInstr op s.upc = some (cmd.microOp widx)) (hdone : s.lastDone ≤ ts) (hpast : lastTc s.trace ≤ ts) :
    GateOpen s.trace (.dcs cmd r) ts := by
  cases cmd with
  | exitSleep =>
    obtain ⟨rfl, hk⟩ := exitSleep_position hi
    obtain ⟨-, -, -, -, -, hconf⟩ := h
    exact (hconf hk).gateOpen le_rfl hdone
  | enterSleep | setDisplayOff | setDisplayOn => exact .of_not_gated rfl hpast

/-- The first record is written after G3 (R260), and the others right after a record. -/
theorem State.GateAt.write (h : s.GateAt op) (j : Nat) (b0 b1 : Byte) (r : Resp) (hi : programInstr op s.upc = some .replay)
    (hp : s.phase ≠ .fresh) (hdone : s.lastDone ≤ ts) (hpast : lastTc s.trace ≤ ts) :
    GateOpen s.trace (.write j b0 b1 r) ts := by
  obtain ⟨rfl, hk⟩ := replay_position hi
  obtain ⟨-, hfirst, hnext, -, -, -⟩ := h
  by_cases hri : s.ri = 0
  · exact (hfirst hk (.inr hri)).gateOpen le_rfl hdone
  · exact (hnext hk hp hri).gateOpen hpast

/-- A micro-op of a fixed program keeps the gates of the trace. -/
theorem MicroEffect.gatesKept (he : MicroEffect s i t) (hi : programInstr op s.upc = some i) (hgate : s.GateAt op)
    (hc : s.Clocked) (hb : s.busy = true) (h : GatesKept s.trace) : GatesKept t.trace := by
  obtain ⟨hpast, hdone, -⟩ := hc.issueTime_bounds hb
  cases he with
  | ended => exact h.done _ _ hc.past
  | stateSet c st hst => exact h.cons (hgate.setst hi hst hc.done hc.past)
  | driven level => exact h.cons (hgate.rst hi hc.done hc.past)
  | railOk => exact h.cons (by simpa using hgate.rail .ok hi hdone hpast)
  | railPends => exact h.cons (by simpa using hgate.rail .err hi hdone hpast)
  | railRaises => exact (h.cons (by simpa using hgate.rail .err hi hdone hpast)).done _ _ le_rfl
  | dcsOk => exact h.cons (by simpa using hgate.dcs .ok hi hdone hpast)
  | dcsWarns => exact h.cons (by simpa using hgate.dcs .err hi hdone hpast)
  | recordOk b0 b1 hp => exact h.cons (by simpa using hgate.write _ b0 b1 .ok hi hp hdone hpast)
  | recordRaises b0 b1 hp => exact (h.cons (by simpa using hgate.write _ b0 b1 .err hi hp hdone hpast)).done _ _ le_rfl
  | gateClosed | gateOpen | railWaits | dcsWaits | replayBegins | recordWaits | replayEnds => exact h

/-! ## The gates along the programs -/

/-- The event that a micro-op completes with is the newest, and its gate starts to run. -/
theorem State.newest_of_completed {older : List Event} (htrace : t.trace = ⟨k, ts, t.lastDone⟩ :: older) : t.Newest k 0 :=
  ⟨_, older, htrace, rfl, le_rfl⟩

theorem newest_of_rst {level : Level} (he : exec (.rst level) s = .next t) :
    t.upc = s.upc + 1 ∧ t.Newest (.rst level) 0 := by
  cases he
  exact ⟨rfl, State.newest_of_completed rfl⟩

theorem newest_of_setst {c : BitVec 3} {st : LifeState} (hc : LifeState.ofCode c = some st)
    (he : exec (.setst c) s = .next t) : t.upc = s.upc + 1 ∧ t.Newest (.state st) 0 := by
  simp only [exec, execSetst, hc, Host.Outcome.next.injEq] at he
  subst he
  exact ⟨rfl, State.newest_of_completed rfl⟩

/-- The newest event stays with the trace, and the gate after it stays open (R157). -/
theorem State.Newest.congr (h : s.Newest k us) (htrace : t.trace = s.trace) (hdone : s.lastDone ≤ t.lastDone) :
    t.Newest k us := by
  obtain ⟨e, older, hnew, hkind, htc⟩ := h
  exact ⟨e, older, htrace.trans hnew, hkind, htc.trans hdone⟩

/-- A WAIT leaves the newest event, and when it completes the gate after that event has run its length (R156). -/
theorem State.Newest.wait {ms : BitVec 12} (h : s.Newest k 0) (hwait : s.WaitsFromLastDone op)
    (hat : waitsAt op s.upc = true) (us : Nat) (hus : gateMicros ms = us) (he : execWait ms s = .next t) :
    (t.upc = s.upc ∧ t.Newest k 0) ∨ (t.upc = s.upc + 1 ∧ t.phase = .fresh ∧ t.Newest k us) := by
  have ht0 : s.beginWait.t0 = s.lastDone := by
    by_cases hp : s.phase = .begun
    · simpa [hp] using hwait hat hp
    · simp [hp]
  rcases wait_cases s t ms he with ⟨-, rfl⟩ | ⟨hg, rfl⟩
  · exact .inl ⟨rfl, h⟩
  · obtain ⟨e, older, htrace, hkind, htc⟩ := h
    refine .inr ⟨rfl, rfl, e, older, htrace, hkind, ?_⟩
    change e.tc + us ≤ s.now
    omega

/-- PREPARE waits after it has driven the reset line Low, and again after High (R115). -/
theorem State.GateAt.prepare_next (h : s.GateAt .prepare) (hwait : s.WaitsFromLastDone .prepare)
    (hi : programInstr .prepare s.upc = some i) (he : exec i s = .next t) : t.GateAt .prepare := by
  obtain ⟨hlow, -, hhigh, -⟩ := h
  rcases program_prepare _ _ hi with ⟨hk, rfl⟩ | ⟨hk, rfl⟩ | ⟨hk, rfl⟩ | ⟨hk, rfl⟩ | ⟨hk, rfl⟩ | ⟨hk, rfl⟩ | ⟨hk, rfl⟩
  · rcases (railEffect he).upc_cases with hupc | ⟨hupc, -⟩ <;> simp [State.GateAt, hupc, hk]
  · obtain ⟨hupc, hn⟩ := newest_of_rst he
    simp [State.GateAt, hupc, hk, hn]
  · rcases (hlow hk).wait hwait (by simp [hk, waitsAt]) 120000 rfl he with ⟨hupc, hn⟩ | ⟨hupc, -, hn⟩ <;>
      simp [State.GateAt, hupc, hk, hn]
  · obtain ⟨hupc, hn⟩ := newest_of_rst he
    simp [State.GateAt, hupc, hk, hn]
  · rcases (hhigh hk).wait hwait (by simp [hk, waitsAt]) 120000 rfl he with ⟨hupc, hn⟩ | ⟨hupc, -, hn⟩ <;>
      simp [State.GateAt, hupc, hk, hn]
  all_goals
    cases he
    simp [State.GateAt, hk]

/-- The replay starts behind the open G3, which stays open while no record is written (R120, R160). -/
theorem State.GateAt.replay_next (h : s.GateAt .enable) (hk : s.upc = 1) (hdone : s.lastDone ≤ s.now)
    (he : execReplay s = .next t) (hb : t.busy = true) : t.GateAt .enable := by
  obtain ⟨-, hfirst, hnext, -, -, -⟩ := h
  rcases replay_cases s t he with ⟨hp, rfl⟩ | ⟨hp, -, rfl⟩ | ⟨hp, -, rfl⟩
  · have hn := hfirst hk (.inl hp)
    simp [State.GateAt, hk, hn]
  · generalize Memory.read s.cfg.table (2 * s.ri) = b0, Memory.read s.cfg.table (2 * s.ri + 1) = b1 at hb ⊢
    rcases replayRecord_cases s b0 b1 with ⟨-, heq⟩ | ⟨-, heq⟩ | ⟨-, heq⟩ <;> rw [heq] at hb ⊢
    · refine ⟨by simp [hk], fun _ hstart => ?_, fun _ _ => hnext hk hp, by simp [hk], by simp [hk], by simp [hk]⟩
      have hri : s.ri = 0 := hstart.resolve_left (Phase.request_ne_fresh _ _ _)
      exact (hfirst hk (.inr hri)).congr rfl le_rfl
    · have hn : ((s.issue (.write s.ri b0 b1)).answered (.write s.ri b0 b1 .ok)).countRecord.NewestIsWrite :=
        ⟨_, _, _, _, _, rfl, rfl⟩
      simp [State.GateAt, hk, hn]
    · cases hb
  · by_cases hri : s.ri = 0
    · have hn : s.complete.Newest (.accept .enable) 10000 := (hfirst hk (.inr hri)).congr rfl hdone
      simp [State.GateAt, hk, hn]
    · have hn : s.complete.NewestIsWrite := hnext hk hp hri
      simp [State.GateAt, hk, hn]

/-- ENABLE waits after its acceptance, and again after it has set Configured (R120). -/
theorem State.GateAt.enable_next (h : s.GateAt .enable) (hwait : s.WaitsFromLastDone .enable) (hdone : s.lastDone ≤ s.now)
    (hi : programInstr .enable s.upc = some i) (he : exec i s = .next t) (hb : t.busy = true) : t.GateAt .enable := by
  have hgate := h
  obtain ⟨hacc, -, -, -, hconf, hsleep⟩ := h
  rcases program_enable _ _ hi with
    ⟨hk, rfl⟩ | ⟨hk, rfl⟩ | ⟨hk, rfl⟩ | ⟨hk, rfl⟩ | ⟨hk, rfl⟩ | ⟨hk, rfl⟩ | ⟨hk, rfl⟩ | ⟨hk, rfl⟩
  · rcases (hacc hk).wait hwait (by simp [hk, waitsAt]) 10000 rfl he with ⟨hupc, hn⟩ | ⟨hupc, hp, hn⟩
    · simp [State.GateAt, hupc, hk, hn]
    · simp [State.GateAt, hupc, hk, hp, hn]
  · exact hgate.replay_next hk hdone he hb
  · obtain ⟨hupc, hn⟩ := newest_of_setst rfl he
    simp [State.GateAt, hupc, hk, hn]
  · rcases (hconf hk).wait hwait (by simp [hk, waitsAt]) 120000 rfl he with ⟨hupc, hn⟩ | ⟨hupc, -, hn⟩ <;>
      simp [State.GateAt, hupc, hk, hn]
  · cases he
    rcases dcs_cases s .exitSleep 0#2 with ⟨-, heq⟩ | ⟨-, heq⟩ | ⟨-, heq⟩ <;> rw [heq]
    · have hn : (s.issue (.dcs .exitSleep)).Newest (.state .configured) 120000 := (hsleep hk).congr rfl le_rfl
      simp [State.GateAt, hk, hn]
    · simp [State.GateAt, hk]
    · simp [State.GateAt, hk]
  · rcases (dcsEffect .setDisplayOn he).upc_cases with hupc | ⟨hupc, -⟩ <;> simp [State.GateAt, hupc, hk]
  all_goals
    cases he
    simp [State.GateAt, hk]

/-- UNPREPARE waits after it has driven the reset line Low (R130, R133). -/
theorem State.GateAt.unprepare_next (h : s.GateAt .unprepare) (hwait : s.WaitsFromLastDone .unprepare)
    (hi : programInstr .unprepare s.upc = some i) (he : exec i s = .next t) : t.GateAt .unprepare := by
  obtain ⟨hlow, hoff⟩ := h
  rcases program_unprepare _ _ hi with ⟨hk, rfl⟩ | ⟨hk, rfl⟩ | ⟨hk, rfl⟩ | ⟨hk, rfl⟩ | ⟨hk, rfl⟩
  · obtain ⟨hupc, hn⟩ := newest_of_rst he
    simp [State.GateAt, hupc, hk, hn]
  · rcases (hlow hk).wait hwait (by simp [hk, waitsAt]) 120000 rfl he with ⟨hupc, hn⟩ | ⟨hupc, -, hn⟩ <;>
      simp [State.GateAt, hupc, hk, hn]
  · rcases rail_cases s t _ _ he with ⟨-, rfl⟩ | ⟨-, rfl⟩ | ⟨-, hf, -⟩ | ⟨-, -, rfl⟩
    · have hn : (s.issueRail false).Newest (.rst .low) 120000 := (hoff hk).congr rfl le_rfl
      simp [State.GateAt, hk, hn]
    · simp [State.GateAt, hk]
    · cases hf
    · simp [State.GateAt, hk]
  all_goals
    cases he
    simp [State.GateAt, hk]

/-- The micro-op at UPC leaves behind it the gate that the next position asks for (R90, R260). -/
theorem State.GateAt.next (h : s.GateAt op) (hwait : s.WaitsFromLastDone op) (hdone : s.lastDone ≤ s.now)
    (hi : programInstr op s.upc = some i) (he : exec i s = .next t) (hb : t.busy = true) : t.GateAt op := by
  cases op with
  | prepare => exact h.prepare_next hwait hi he
  | enable => exact h.enable_next hwait hdone hi he hb
  | unprepare => exact h.unprepare_next hwait hi he
  | disable | getModes => trivial

/-- A program that is entered needs no gate but the one after ENABLE's acceptance, which starts to run (R110, R120). -/
theorem gateAt_start (s : State) (op : HostOp) : (s.start op).GateAt op := by
  have hn : (s.start op).Newest (.accept op) 0 := State.newest_of_completed rfl
  cases op <;> simp [State.GateAt, hn]

theorem gateAt_enter_unprepare (s : State) : (s.enter .unprepare).GateAt .unprepare := by
  simp [State.GateAt]

/-! ## The invariant of the gates -/

/-- An idle block or none has no program that stands behind a gate. -/
theorem State.gated_of_not_running (hkept : GatesKept s.trace) (hrun : s.live = true → s.busy = false) : s.Gated :=
  ⟨hkept, fun hl hb => absurd (hb.symm.trans (hrun hl)) (by decide)⟩

/-- A running program that stands behind its gate. -/
theorem State.gated_of_running (hkept : GatesKept s.trace) (hop : s.curOp = some op) (hat : s.GateAt op) : s.Gated :=
  ⟨hkept, fun _ _ op' hop' => by rwa [← Option.some.inj (hop.symm.trans hop')]⟩

theorem State.Gated.arrive (h : s.Gated) : s.arrive.Gated :=
  ⟨h.kept, h.running⟩

theorem State.Gated.settleDetach (h : s.Gated) : s.settleDetach.Gated := by
  rcases settleDetach_cases s with heq | ⟨-, -, -, heq⟩ | ⟨-, -, -, heq⟩ <;> rw [heq]
  · exact h
  · exact State.gated_of_not_running h.kept (by simp)
  · exact State.gated_of_running h.kept rfl (gateAt_enter_unprepare s)

/-- No gate ends with an acceptance or a DONE (R261). -/
theorem State.Gated.command (h : s.Gated) (hpast : lastTc s.trace ≤ s.now) (hb : s.busy = false)
    (he : CommandEffect s op t) : t.Gated := by
  have hacc := h.kept.accept op hpast
  cases he with
  | started => exact State.gated_of_running hacc rfl (gateAt_start s op)
  | refused | noop | delivered | unallocated =>
    exact State.gated_of_not_running (hacc.done (some _) _ le_rfl) fun _ => hb

theorem State.Gated.access {a : HostAccess} (h : s.Gated) (hpast : lastTc s.trace ≤ s.now) (he : AccessEffect s a t) :
    t.Gated := by
  cases he with
  | command _ hb _ _ _ _ he => exact h.command hpast hb he
  | create => exact State.gated_of_not_running trivial fun _ => rfl
  | read | readUnmapped | bank | violates | notFound | detach | dead => exact ⟨h.kept, h.running⟩

/-- A micro-op of a fixed program keeps the invariant. -/
theorem State.Gated.microOp {w : UopWord} (h : s.Gated) (hs : s.Sequenced) (hc : s.Clocked) (hl : s.live = true)
    (hb : s.busy = true) (hw : s.fetch = some w) (hi : decodeUop w = .ok i) (he : exec i s = .next t) : t.Gated := by
  obtain ⟨op, hop, -, hk⟩ := hs.programInstr_of_fetch hl hb hw hi
  have hm := microOp_cases (decodeUop_isHost hi) he
  have hgate : s.GateAt op := h.running hl hb op hop
  refine ⟨hm.gatesKept hk hgate hc hb h.kept, fun _ hb' op' hop' => ?_⟩
  obtain rfl : op = op' := Option.some.inj (hop.symm.trans (hm.framed.curOp.symm.trans hop'))
  exact hgate.next (hs.waiting hl hb op hop) hc.done hk he hb'

end

/-- Settles O52: the input's arrival, the host's access, the micro-op and a waiting detach each keep the gates. -/
theorem gatedKept : Obligations.GatedKept := by
  intro s t hs hc h hstep
  cases step_effect hstep with
  | idle => exact h.arrive
  | host a u _ he => exact (h.arrive.access hc.arrive.past he).settleDetach
  | micro w i u _ hl hb hw hi he => exact (h.arrive.microOp hs.arrive hc.arrive hl hb hw hi he).settleDetach

end Sys2Proof.Machine
end

section
/-! PROOFS. The actions of the micro-ops (41_replay_and_actions.md): which register belongs to which of them (R25 to R34), RST,
SETST and END (R154, R170, R172), and the error that ends an operation (R171). -/

namespace Sys2Proof.Machine

/-! ## Which register is whose -/

section
variable {s t : State} {i : Instr}

/-- RESET_N is RST's (R154). -/
theorem MicroEffect.resetN_cases (he : MicroEffect s i t) : t.resetN = s.resetN ∨ ∃ level, i = .rst level := by
  cases he with
  | driven level => exact .inr ⟨level, rfl⟩
  | _ => exact .inl rfl

/-- RAIL_REQ is RAIL's (R152). -/
theorem MicroEffect.railReq_cases (he : MicroEffect s i t) : t.railReq = s.railReq ∨ ∃ fatal en, i = .rail fatal en := by
  cases he with
  | railWaits fatal en | railOk fatal en => exact .inr ⟨fatal, en, rfl⟩
  | railRaises en => exact .inr ⟨true, en, rfl⟩
  | railPends en => exact .inr ⟨false, en, rfl⟩
  | _ => exact .inl rfl

/-- PEND is written by a failed RAIL that is not fatal (R152). -/
theorem MicroEffect.pend_cases (he : MicroEffect s i t) :
    t.pend = s.pend ∨ (s.draw.resp = some .err ∧ ∃ en, i = .rail false en) := by
  cases he with
  | railPends en hr => exact .inr ⟨hr, en, rfl⟩
  | _ => exact .inl rfl

/-- RI is REPLAY's (R160). -/
theorem MicroEffect.ri_of_ne_replay (he : MicroEffect s i t) (hi : i ≠ .replay) : t.ri = s.ri := by
  cases he with
  | replayBegins | recordOk => exact absurd rfl hi
  | _ => rfl

/-- T0 is WAIT's (R156). -/
theorem MicroEffect.t0_cases (he : MicroEffect s i t) : t.t0 = s.t0 ∨ ∃ ms, i = .wait ms := by
  cases he with
  | gateClosed ms | gateOpen ms => exact .inr ⟨ms, rfl⟩
  | _ => exact .inl rfl

/-- WARN is written by a failed DCS micro-op (R163). -/
theorem MicroEffect.warn_cases (he : MicroEffect s i t) : t.warn = s.warn ∨ ∃ widx cmd, i = DcsCmd.microOp cmd widx := by
  cases he with
  | dcsWarns cmd widx => exact .inr ⟨widx, cmd, rfl⟩
  | _ => exact .inl rfl

/-- A DCS micro-op writes no bit of WARN but WIDX (R163). -/
theorem getLsbD_dcs_warn {widx : BitVec 2} {k : Nat} (cmd : DcsCmd) (hk : k ≠ widx.toNat) :
    (s.dcs cmd widx).warn.getLsbD k = s.warn.getLsbD k := by
  rcases dcs_cases s cmd widx with ⟨-, heq⟩ | ⟨-, heq⟩ | ⟨-, heq⟩ <;> rw [heq]
  · rfl
  · rfl
  · simp [getLsbD_warnSet, hk]

/-- RESULT and BUSY are written by what can end an operation: END, REPLAY and a fatal RAIL (R171, R172). -/
theorem MicroEffect.result_busy_cases (he : MicroEffect s i t) :
    (t.result = s.result ∧ t.busy = s.busy) ∨ i = .endProgram ∨ i = .replay ∨ ∃ en, i = .rail true en := by
  rcases he.ends_or_goes_on with hend | ⟨hbusy, hresult, -⟩
  · cases hend with
    | ended => exact .inr (.inl rfl)
    | record => exact .inr (.inr (.inl rfl))
    | rail en => exact .inr (.inr (.inr ⟨en, rfl⟩))
  · exact .inl ⟨hresult, hbusy⟩

/-- A micro-op stays at its position and keeps the previous completion, or completes now (R150, R156). -/
theorem MicroEffect.stays_or_completes (he : MicroEffect s i t) :
    (t.upc = s.upc ∧ t.lastDone = s.lastDone) ∨ (t.upc = s.upc + 1 ∧ t.phase = .fresh ∧ t.lastDone = s.now) := by
  cases he with
  | ended | gateClosed | railWaits | railRaises | dcsWaits | replayBegins | recordWaits | recordOk | recordRaises =>
    exact .inl ⟨rfl, rfl⟩
  | stateSet | driven | gateOpen | railOk | railPends | dcsOk | dcsWarns | replayEnds => exact .inr ⟨rfl, rfl, rfl⟩

end

/-- The four constructors of the DCS micro-ops are those of the four commands (R88). -/
theorem exists_microOp_iff {i : Instr} {widx : BitVec 2} : (∃ cmd : DcsCmd, i = cmd.microOp widx)
    ↔ i = .dcsEnterSleep widx ∨ i = .dcsExitSleep widx ∨ i = .dcsDisplayOff widx ∨ i = .dcsDisplayOn widx := by
  constructor
  · rintro ⟨cmd, rfl⟩
    cases cmd <;> simp [DcsCmd.microOp]
  · rintro (rfl | rfl | rfl | rfl)
    · exact ⟨.enterSleep, rfl⟩
    · exact ⟨.exitSleep, rfl⟩
    · exact ⟨.setDisplayOff, rfl⟩
    · exact ⟨.setDisplayOn, rfl⟩

/-- Settles O39: each register by the micro-op that owns it, WARN bit by bit. -/
theorem microOpOwnRegisters : Obligations.MicroOpOwnRegisters := by
  intro i s t hi h
  have he : MicroEffect s i t := microOp_cases hi h
  refine ⟨fun hne => ?_, fun hne => ⟨?_, ?_⟩, fun hne => ?_, fun hne => ?_,
    fun hne => ⟨he.recIdx_of_ne_replay hne, he.ri_of_ne_replay hne⟩, fun hne => ?_, fun hne => ?_, fun w k hw hk => ?_,
    fun hend hreplay hrail => ?_, fun hupc => ?_, fun hupc => ?_⟩
  · exact he.resetN_cases.resolve_right fun ⟨l, hl⟩ => hne l hl
  · exact he.railReq_cases.resolve_right fun ⟨f, en, hr⟩ => hne f en hr
  · exact he.pend_cases.resolve_right fun ⟨_, en, hr⟩ => hne false en hr
  · exact he.pend_cases.resolve_right fun ⟨_, en, hr⟩ => hne en hr
  · exact he.lifeState_cases.resolve_right fun ⟨c, hc, _⟩ => hne c hc
  · exact he.t0_cases.resolve_right fun ⟨ms, hms⟩ => hne ms hms
  · refine he.warn_cases.resolve_right fun ⟨widx, hdcs⟩ => ?_
    simpa [hne widx] using exists_microOp_iff.mp hdcs
  · obtain ⟨cmd, rfl⟩ := exists_microOp_iff.mpr hw
    obtain rfl : s.dcs cmd w = t := Host.Outcome.next.inj ((exec_dcs cmd w s).symm.trans h)
    exact getLsbD_dcs_warn cmd hk
  · rcases he.result_busy_cases with hkept | hi | hi | ⟨en, hi⟩
    · exact hkept
    · exact absurd hi hend
    · exact absurd hi hreplay
    · exact absurd hi (hrail en)
  · exact he.stays_or_completes.resolve_left fun hstay => hupc hstay.1
  · rcases he.stays_or_completes with ⟨-, hdone⟩ | ⟨hnext, -⟩
    · exact hdone
    · omega

/-! ## The error that ends an operation (R171) -/

/-- Settles O37: of the ends of an operation END is excluded; a fatal RAIL and a record raise. -/
theorem raiseEndsOperation : Obligations.RaiseEndsOperation := by
  intro i s t op hi hend hop hb h hidle
  rcases (microOp_cases hi h).ends_or_goes_on with he | ⟨hbusy, -⟩
  · cases he with
    | ended => exact absurd rfl hend
    | rail en =>
      exact ⟨.powerError, ⟨.rail en .err, s.issueTime, s.now⟩, rfl, by simp [hop], .inl ⟨rfl, en, rfl, rfl⟩,
        rfl, rfl, rfl, rfl, rfl⟩
    | record b0 b1 =>
      exact ⟨.transportError, ⟨.write s.ri b0 b1 .err, s.issueTime, s.now⟩, rfl, by simp [hop],
        .inr ⟨rfl, rfl, b0, b1, rfl⟩, rfl, rfl, rfl, rfl, rfl⟩
  · simp [hbusy, hb] at hidle

/-! ## RST, SETST and END -/

/-- Settles O30: RST drives the line and completes in one step. -/
theorem rstMicroOp : Obligations.RstMicroOp :=
  fun _ level => ⟨decodeUop_rst level, _, rfl, rfl, rfl, rfl, rfl, rfl⟩

/-- The codes that name no state are illegal in a SETST (R91, R170). -/
theorem decodeUop_setst_illegal {c : BitVec 3} (hc : 5 ≤ c.toNat) :
    decodeUop (0x6#4 ++ 0#9 ++ c) = .error .badStateCode := by
  revert c
  decide

theorem execSetst_of_ofCode {c : BitVec 3} {st : LifeState} (s : State) (hc : LifeState.ofCode c = some st) :
    execSetst c s = .next (State.emit { s with lifeState := st } (.state st)).complete := by
  simp [execSetst, hc]

/-- STATE is SETST's among all instructions, the host's included (R170). -/
theorem exec_lifeState_cases {i : Instr} {s t : State} (h : exec i s = .next t) :
    t.lifeState = s.lifeState ∨ ∃ c, i = .setst c := by
  cases hi : i.isHost with
  | true =>
    obtain ⟨-, -, -, hlife, -⟩ := hostInstrFrame i s t hi h
    exact .inl hlife
  | false => exact (microOp_cases hi h).lifeState_cases.imp_right fun ⟨c, hc, _⟩ => ⟨c, hc⟩

/-- Settles O34: a code up to 4 names a state, which SETST writes. -/
theorem setstMicroOp : Obligations.SetstMicroOp := by
  refine ⟨fun s c hc => ⟨decodeUop_setst hc, ?_⟩, fun c hc => ⟨_, decodeUop_setst_illegal hc⟩,
    fun i s t h hne => (exec_lifeState_cases h).resolve_left hne⟩
  obtain ⟨st, hst⟩ : ∃ st, LifeState.ofCode c = some st := by
    rw [← Option.isSome_iff_exists]
    revert c
    decide
  exact ⟨_, execSetst_of_ofCode s hst, LifeState.code_of_ofCode hst, rfl, rfl, rfl, rfl⟩

/-- A command to an idle block clears PEND when it enters a program, and keeps it otherwise (R110). -/
theorem CommandEffect.pend_cases {s t : State} {op : HostOp} (he : CommandEffect s op t) : t.pend = s.pend ∨ t.pend = .ok := by
  cases he with
  | started => exact .inr rfl
  | refused | noop | delivered | unallocated => exact .inl rfl

/-- No command leaves a PowerError in PEND that was not there (R110, R172). -/
theorem exec_instr_pend_ok {s t : State} {op : HostOp} (h : exec op.instr s = .next t) (hs : s.pend = .ok) : t.pend = .ok := by
  rcases exec_instr_cases h with ⟨-, rfl⟩ | ⟨-, -, rfl⟩ | ⟨-, -, he⟩
  · exact hs
  · exact hs
  · exact he.pend_cases.elim (·.trans hs) id

/-- Settles O36: END reports PEND, which no command and no other micro-op than RAIL sets to PowerError. -/
theorem endMicroOp : Obligations.EndMicroOp := by
  refine ⟨decodeUop_0000, fun s op hop => ⟨_, rfl, rfl, fun hp => ?_, fun hp => ?_⟩, fun i s t h hs ht => ?_⟩
  · simp [hop, hp, Pend.toResult]
  · simp [hop, hp, Pend.toResult]
  · have hne : t.pend ≠ .ok := fun hok => nomatch ht.symm.trans hok
    cases hi : i.isHost with
    | true =>
      obtain ⟨op, rfl⟩ := exists_op_of_isHost hi
      exact absurd (exec_instr_pend_ok h hs) hne
    | false => exact (microOp_cases hi h).pend_cases.resolve_left fun hkept => hne (hkept.trans hs)

end Sys2Proof.Machine
end

section
/-! PROOFS. The delivered mode (42_modes.md): what GET_MODES writes, with which sums and how often the same (R192, R195,
R198), and the link parameters, which only CFG_LINK shows (R199). -/

namespace Sys2Proof.Machine

/-! ## GET_MODES (R192, R195, R198) -/

section
variable {s t : State}

/-- Without an allocation GET_MODES reports AllocationError (R195, R196). -/
theorem exec_getModes_err (hl : s.live = true) (hb : s.busy = false) (ha : s.draw.alloc = .err) :
    exec .getModes s = .next s.modesFailed :=
  (exec_instr_performed (op := .getModes) hl hb rfl).trans (by simp [HostOp.perform, ha])

/-- A successful GET_MODES writes the bank from the configuration ROM, whatever stood there (R195, R197, R198). -/
theorem bank_of_getModes (hl : s.live = true) (hb : s.busy = false) (ha : s.draw.alloc = .ok)
    (h : exec .getModes s = .next t) : t.bank = ModeBank.ofConfig s.cfg := by
  rw [exec_getModes_ok hl hb ha] at h
  cases h
  rfl

/-- A host write to the MO or DI registers changes nothing but the bank (R35). -/
theorem bankWrite_next {n : Nat} {v : HostWord} (hl : s.live = true) (hlo : 0x10 ≤ n) (hhi : n ≤ 0x1F)
    (h : hostAccess (.write n v) s = .next t) : ∃ b, t = { s with bank := b } := by
  obtain ⟨r, hr⟩ := exists_bank_of_range hlo hhi
  obtain rfl := ofNum_eq_bank.mp hr
  rw [hostAccess_write hl, hostWrite_bank] at h
  cases h
  exact ⟨_, rfl⟩

/-- The blanking sums of a well-formed configuration (R192). -/
theorem PanelConfig.wf_blanking {c : PanelConfig} (h : c.wf = true) :
    c.horizontal.front + c.horizontal.sync + c.horizontal.back = 100
      ∧ c.vertical.front + c.vertical.sync + c.vertical.back = 134 := by
  simp only [PanelConfig.wf, Bool.and_eq_true, decide_eq_true_eq] at h
  obtain ⟨⟨-, hhor⟩, hver⟩ := h
  exact ⟨hhor, hver⟩

/-- A register holds a number below 2^32 unchanged (R55). -/
theorem modeWord_toNat {n : Nat} (h : n < 2 ^ 32) : (modeWord n).toNat = n := Nat.mod_eq_of_lt h

end

/-- Settles O26: a part of a sum of 100 or 134 fits its register, so the words add up as the configuration's numbers do. -/
theorem modeTotals : Obligations.ModeTotals := by
  intro s ⟨hwf, _⟩ hl hb ha
  obtain ⟨hhor, hver⟩ := PanelConfig.wf_blanking hwf
  refine ⟨s.modesDelivered, _, _, _, _, _, _, _, _, _, _, exec_getModes_ok hl hb ha,
    rfl, rfl, rfl, rfl, rfl, ?_, ?_, rfl, rfl, rfl, rfl, rfl, ?_, ?_⟩
  all_goals simp (disch := omega) only [modeWord_toNat, Config.hdisplay, Config.htotal, Config.vdisplay, Config.vtotal]
  all_goals omega

/-- Settles O27: the bank that is written is a function of the configuration, which a write to the bank leaves. -/
theorem getModesRepeats : Obligations.GetModesRepeats := by
  refine ⟨fun s u s' u' hsl hul hsb hub hsa hua hcfg hs hu => ?_, fun s t s' t' n v hl hb ha hlo hhi ht hs hs' => ?_⟩
  · rw [bank_of_getModes hsl hsb hsa hs, bank_of_getModes hul hub hua hu, hcfg]
  · obtain ⟨b, rfl⟩ := bankWrite_next hl hlo hhi ht
    rw [bank_of_getModes hl hb ha hs, bank_of_getModes (s := { s with bank := b }) hl hb ha hs']

/-- Settles O25: the draw decides between the delivery and the failure. -/
theorem getModes : Obligations.GetModes :=
  ⟨decodeHost_word .getModes, fun _ hl hb => ⟨exec_getModes_ok hl hb, exec_getModes_err hl hb⟩⟩

/-! ## The link parameters (R199) -/

/-- Values of LANES, PIXEL_FORMAT and PIXEL_FORMAT_CODE (R7, R199). -/
structure LinkParams where
  lanes : LaneCount
  format : PixelFormat
  code : BitVec 8

/-- The state with these link parameters in its configuration ROM. -/
def State.withLink (s : State) (k : LinkParams) : State :=
  { s with cfg := { s.cfg with lanes := k.lanes, pixelFormat := k.format, pixelFormatCode := k.code } }

section
variable {s t : State} {i : Instr} (k : LinkParams)

@[simp] theorem State.withLink_draw (s : State) : (s.withLink k).draw = s.draw := rfl

/-- A micro-op reads only N_REC and the table of the configuration ROM (R51, R160). -/
theorem MicroEffect.exec_withLink (he : MicroEffect s i t) : exec i (s.withLink k) = .next (t.withLink k) := by
  cases he with
  | ended | driven => rfl
  | stateSet c st hc => exact execSetst_of_ofCode (s.withLink k) hc
  | gateClosed ms hg => exact execWait_closed (s := s.withLink k) hg
  | gateOpen ms hg => exact execWait_open (s := s.withLink k) hg
  | railWaits fatal en hr | railOk fatal en hr | railRaises en hr | railPends en hr =>
    simp only [exec, execRail, State.issueRail_draw, State.withLink_draw, hr]
    rfl
  | dcsWaits cmd widx hr | dcsOk cmd widx hr | dcsWarns cmd widx hr =>
    simp only [exec_dcs, State.dcs, State.issue_draw, State.withLink_draw, hr]
    rfl
  | replayBegins hp => exact execReplay_begins (s := s.withLink k) hp
  | recordWaits b0 b1 hp hlt hb hr | recordOk b0 b1 hp hlt hb hr | recordRaises b0 b1 hp hlt hb hr =>
    rw [tableRead_of_lt _ _ hlt] at hb
    cases hb
    refine (execReplay_record (s := s.withLink k) hp hlt).trans ?_
    simp only [State.replayRecord, State.issue_draw, State.withLink_draw, hr]
    rfl
  | replayEnds hp hge => exact execReplay_ends (s := s.withLink k) hp hge

/-- GET_MODES reads the mode of the configuration ROM and UNPREPARE its parameter; no command reads more (R131, R195). -/
theorem perform_withLink (op : HostOp) (s : State) : op.perform (s.withLink k) = (op.perform s).withLink k := by
  cases op with
  | prepare | enable | disable => rfl
  | unprepare =>
    simp only [HostOp.perform, apply_ite (State.withLink · k)]
    rfl
  | getModes =>
    simp only [HostOp.perform, State.withLink_draw]
    cases s.draw.alloc <;> rfl

theorem exec_instr_withLink {op : HostOp} (hl : s.live = true) (h : exec op.instr s = .next t) :
    exec op.instr (s.withLink k) = .next (t.withLink k) := by
  rw [exec_instr] at h
  rcases accept_cases s t op _ h with ⟨hd, -⟩ | ⟨-, hb, rfl⟩ | ⟨-, hb, hp, rfl⟩ | ⟨-, hb, hp, rfl⟩
  · cases hl.symm.trans hd
  · exact exec_instr_busy (s := s.withLink k) op hl hb
  · exact exec_instr_refused (s := s.withLink k) hl hb hp
  · exact (exec_instr_performed (s := s.withLink k) hl hb hp).trans (congrArg _ (perform_withLink k op s))

theorem ofNum_eq_cfgLink {n : Nat} (h : HostReg.ofNum n = some .cfgLink) : n = 0x06 := by
  unfold HostReg.ofNum at h
  split at h <;> cases h
  rfl

/-- CFG_LINK is the only register that shows the link parameters (R23, R199). -/
theorem reading_withLink (s : State) {n : Nat} {r : HostReg} (hr : r ≠ .cfgLink) :
    (s.withLink k).reading n r = (s.reading n r).withLink k := by
  cases r with
  | cfgLink => exact absurd rfl hr
  | _ => rfl

theorem hostRead_withLink {n : Nat} (hn : n ≠ 0x06) (h : hostRead n s = .next t) :
    hostRead n (s.withLink k) = .next (t.withLink k) := by
  unfold hostRead at h ⊢
  split at h
  · cases h
    rfl
  · rename_i r hr
    cases h
    exact congrArg _ (reading_withLink k s fun hlink => hn (ofNum_eq_cfgLink (hlink ▸ hr)))

theorem hostWrite_withLink {n : Nat} {v : HostWord} (hl : s.live = true) (h : hostWrite n v s = .next t) :
    hostWrite n v (s.withLink k) = .next (t.withLink k) := by
  unfold hostWrite at h ⊢
  split at h
  · split at h
    · rename_i i hi
      obtain ⟨op, rfl⟩ := decodeHost_instr hi
      exact exec_instr_withLink k hl h
    · cases h
      rfl
  all_goals
    cases h
    rfl

/-- No access but a read of CFG_LINK has another effect with other link parameters (R199). -/
theorem hostAccess_withLink {a : HostAccess} (hl : s.live = true) (ha : a ≠ .read 0x06) (h : hostAccess a s = .next t) :
    hostAccess a (s.withLink k) = .next (t.withLink k) := by
  cases a with
  | read n =>
    rw [hostAccess_read hl] at h
    exact (hostAccess_read (s := s.withLink k) hl n).trans (hostRead_withLink k (fun hn => ha (congrArg _ hn)) h)
  | write n v =>
    rw [hostAccess_write hl] at h
    exact (hostAccess_write (s := s.withLink k) hl n v).trans (hostWrite_withLink k hl h)
  | attach key =>
    rw [hostAccess_attach_live hl] at h
    cases h
  | detach =>
    cases hd : s.detaching with
    | true =>
      rw [hostAccess_detach_again hl hd] at h
      cases h
    | false =>
      rw [hostAccess_detach hl hd] at h
      cases h
      exact hostAccess_detach (s := s.withLink k) hl hd

theorem settleDetach_withLink (s : State) : (s.withLink k).settleDetach = s.settleDetach.withLink k := by
  simp only [State.settleDetach, apply_ite (State.withLink · k)]
  rfl

theorem afterTurn_withLink (u : State) : afterTurn (.next (u.withLink k)) = .next (u.settleDetach.withLink k) :=
  congrArg _ (settleDetach_withLink k u)

/-- The sequencer and a waiting detach read no link parameter, so the step depends on them as its host access does (R199). -/
theorem step_withLink (hl : s.live = true) (hread : s.nextInput.host ≠ some (.read 0x06)) (h : step s = .next t) :
    step (s.withLink k) = .next (t.withLink k) := by
  cases hhost : s.nextInput.host with
  | some a =>
    rw [step_of_access hhost] at h
    obtain ⟨u, hu, rfl⟩ := afterTurn_cases _ _ h
    have ha : a ≠ .read 0x06 := fun heq => hread (heq ▸ hhost)
    have hturn : hostAccess a (s.withLink k).arrive = .next (u.withLink k) :=
      hostAccess_withLink (s := s.arrive) k hl ha hu
    rw [step_of_access (s := s.withLink k) hhost, hturn, afterTurn_withLink]
  | none =>
    cases step_effect h with
    | idle _ hidle => exact step_of_idle (s := s.withLink k) hhost hidle
    | host a u ha => cases hhost.symm.trans ha
    | micro w i u _ _ hb hw hi he =>
      have hturn : exec i (s.withLink k).arrive = .next (u.withLink k) :=
        (microOp_cases (decodeUop_isHost hi) he).exec_withLink (s := s.arrive) k
      rw [step_of_fetch (s := s.withLink k) hhost hl hb hw hi, hturn, afterTurn_withLink]

end

/-- Settles O60: every turn but a read of CFG_LINK is the same with other link parameters. -/
theorem linkParametersUnread : Obligations.LinkParametersUnread :=
  fun _ _ lanes format code => step_withLink ⟨lanes, format, code⟩

end Sys2Proof.Machine
end

section
/-! PROOFS. Between operations (R238): the idle block of 60_exceptions.md. -/

namespace Sys2Proof.Machine

/-- Settles O41: no instance is there or none of its operations runs, so the arrival of the input is all of the step. -/
theorem idleHolds : Obligations.IdleHolds := fun _ hhost hidle =>
  step_of_idle hhost fun ⟨hl, hb⟩ => Bool.false_ne_true ((hidle hl).symm.trans hb)

end Sys2Proof.Machine
end

section
/-! PROOFS. Which events a turn can emit (R13), and that traffic meets a powered, released panel (R238, R262). -/

namespace Sys2Proof.Machine

/-! ## The events of a turn -/

/-- The kinds of event that a micro-op can emit (R13, R152 to R172). -/
def microOpEmits : Instr → EventKind → Bool
  | .endProgram, .done _ _ | .rail _ _, .rail _ _ | .rail _ _, .done _ _ | .setst _, .state _ => true
  | .rst level, .rst level' => level == level'
  | .replay, .write _ _ _ _ | .replay, .done _ _ => true
  | .dcsEnterSleep _, .dcs _ _ | .dcsExitSleep _, .dcs _ _ | .dcsDisplayOff _, .dcs _ _ | .dcsDisplayOn _, .dcs _ _ => true
  | _, _ => false

/-- The kinds of event that a command emits by itself (R13, R110). -/
def EventKind.isCommand : EventKind → Bool
  | .accept _ | .done _ _ => true
  | _ => false

theorem EventKind.isTraffic_of_isCommand {k : EventKind} (h : k.isCommand = true) : k.isTraffic = false := by
  cases k <;> simp_all [EventKind.isCommand, EventKind.isTraffic]

/-- From `s` to `t` the trace has grown by events whose kinds all meet `p`. -/
def State.GrewBy (s t : State) (p : EventKind → Bool) : Prop :=
  ∃ new, t.trace = new ++ s.trace ∧ ∀ e ∈ new, p e.kind = true

section
variable {s t : State} {i : Instr} {op : HostOp} {p : EventKind → Bool}

theorem State.GrewBy.of_eq (h : t.trace = s.trace) : s.GrewBy t p := ⟨[], h, by simp⟩

/-- A DCS micro-op emits its command's event (R163). -/
theorem microOpEmits_dcs (cmd : DcsCmd) (widx : BitVec 2) (r : Resp) : microOpEmits (cmd.microOp widx) (.dcs cmd r) = true := by
  cases cmd <;> rfl

theorem doneEvent_kinds (hdone : ∀ op r, p (.done op r) = true) (r : ResultCode) (now : Nat) (o : Option HostOp) :
    ∀ e ∈ doneEvent o r now, p e.kind = true := by
  cases o <;> simp [doneEvent, hdone]

/-- A micro-op emits the events of its kind, and the DONE of an operation that it ends. -/
theorem MicroEffect.grewBy (he : MicroEffect s i t) : s.GrewBy t (microOpEmits i) := by
  cases he with
  | ended => exact ⟨_, rfl, doneEvent_kinds (fun _ _ => rfl) _ _ _⟩
  | stateSet _ st => exact ⟨[⟨.state st, s.now, s.now⟩], rfl, by simp [microOpEmits]⟩
  | driven level => exact ⟨[⟨.rst level, s.now, s.now⟩], rfl, by simp [microOpEmits]⟩
  | railOk | railPends => exact ⟨[_], rfl, by simp [microOpEmits]⟩
  | dcsOk cmd widx => exact ⟨[_], rfl, by simp [microOpEmits_dcs]⟩
  | dcsWarns cmd widx => exact ⟨[_], rfl, by simp [microOpEmits_dcs]⟩
  | recordOk => exact ⟨[_], rfl, by simp [microOpEmits]⟩
  | railRaises | recordRaises =>
    refine ⟨_ ++ [_], (List.append_assoc _ [_] _).symm, fun e hmem => ?_⟩
    rcases List.mem_append.1 hmem with hmem | hmem
    · exact doneEvent_kinds (fun _ _ => rfl) _ _ _ e hmem
    · rw [List.mem_singleton.1 hmem]
      rfl
  | gateClosed | gateOpen | railWaits | dcsWaits | replayBegins | recordWaits | replayEnds => exact .of_eq rfl

theorem CommandEffect.grewBy (he : CommandEffect s op t) : s.GrewBy t EventKind.isCommand := by
  cases he with
  | started => exact ⟨[_], rfl, by simp [EventKind.isCommand]⟩
  | refused | noop | delivered | unallocated => exact ⟨[_, _], rfl, by simp [EventKind.isCommand]⟩

/-- A host access to a live block emits at most the events of a command (R22, R110). -/
theorem AccessEffect.grewBy {a : HostAccess} (he : AccessEffect s a t) (hl : s.live = true) :
    s.GrewBy t EventKind.isCommand := by
  cases he with
  | command _ _ _ _ _ _ he => exact he.grewBy
  | notFound hl' | create hl' => exact absurd (hl.symm.trans hl') (by decide)
  | read | readUnmapped | bank | violates | detach | dead => exact .of_eq rfl

/-! ## Traffic -/

/-- Where a micro-op that emits traffic stands in the fixed programs (R90). -/
theorem traffic_position {n : Nat} {k : EventKind} (h : programInstr op n = some i) (he : microOpEmits i k = true)
    (hk : k.isTraffic = true) : (op = .enable ∧ 1 ≤ n ∧ n ≤ 5) ∨ (op = .disable ∧ n ≤ 1) := by
  unfold programInstr at h
  split at h <;> cases h <;> cases k <;> simp_all [microOpEmits, EventKind.isTraffic]

/-- A micro-op that emits traffic finds the panel powered and leaves it so (R238). -/
theorem State.At.powered_of_traffic {k : EventKind} (hat : s.At op) (hi : programInstr op s.upc = some i)
    (hm : MicroEffect s i t) (he : microOpEmits i k = true) (hk : k.isTraffic = true) : s.Powered ∧ t.Powered := by
  have hs : s.Powered := by
    rcases traffic_position hi he hk with ⟨rfl, -⟩ | ⟨rfl, -⟩ <;> obtain ⟨-, -, hpow, -⟩ := hat <;> exact hpow
  have hrail : t.railReq = s.railReq := hm.railReq_cases.resolve_right fun ⟨fatal, en, hr⟩ => by
    subst hr
    cases k <;> simp_all [microOpEmits, EventKind.isTraffic]
  have hreset : t.resetN = s.resetN := hm.resetN_cases.resolve_right fun ⟨level, hr⟩ => by
    subst hr
    cases k <;> simp_all [microOpEmits, EventKind.isTraffic]
  obtain ⟨hon, hhigh⟩ := hs
  exact ⟨⟨hon, hhigh⟩, hrail.trans hon, hreset.trans hhigh⟩

end

/-- Settles O56: a command emits no traffic, and a micro-op that does stands in ENABLE or DISABLE, on a powered panel. -/
theorem trafficOnlyPowered : Obligations.TrafficOnlyPowered := by
  intro s t h hl hstep
  cases step_effect hstep with
  | idle => exact ⟨[], rfl, by simp⟩
  | host a u _ he =>
    obtain ⟨new, htrace, hnew⟩ := he.grewBy hl
    refine ⟨new, by simpa using htrace, fun e hmem hk => ?_⟩
    exact absurd (hk.symm.trans (EventKind.isTraffic_of_isCommand (hnew e hmem))) (by decide)
  | micro w i u _ _ hb hw hi he =>
    obtain ⟨op, -, hat, hk⟩ := h.programInstr_of_fetch hl hb hw hi
    have hm := microOp_cases (decodeUop_isHost hi) he
    obtain ⟨new, htrace, hnew⟩ := hm.grewBy
    refine ⟨new, by simpa using htrace, fun e hmem htraffic => ?_⟩
    have hat' : s.arrive.At op := hat
    obtain ⟨⟨hrail, hreset⟩, hrail', hreset'⟩ := hat'.powered_of_traffic hk hm (hnew e hmem) htraffic
    exact ⟨hrail, hreset, by simpa using hrail', by simpa using hreset'⟩

end Sys2Proof.Machine
end

section
/-! PROOFS. The settled traffic (R262): the gates that a program passes have run between the completions of its micro-ops (R156),
the last release of the reset line lies behind them, and so every step keeps `State.Settled`. -/

namespace Sys2Proof.Machine

/-! ## The time a program leaves behind it -/

section
variable {s t : State} {i : Instr} {op : HostOp} {k : Nat} {ms : BitVec 12}

theorem waitsAt_of_wait (h : programInstr op k = some (.wait ms)) : waitsAt op k = true := by
  unfold programInstr at h
  split at h <;> simp at h <;> rfl

/-- How long a micro-op waits at least, in microseconds (R156). -/
def waitMicros : Instr → Nat
  | .wait ms => gateMicros ms
  | _ => 0

theorem waitMicros_of_ne_wait (h : ∀ ms, i ≠ .wait ms) : waitMicros i = 0 := by
  cases i with
  | wait ms => exact absurd rfl (h ms)
  | _ => rfl

/-- The gates a program has passed are those of its WAITs (R90, R260). -/
theorem gatesPassed_succ (h : programInstr op k = some i) : gatesPassed op (k + 1) = gatesPassed op k + waitMicros i := by
  unfold programInstr at h
  split at h <;> cases h <;> rfl

/-- A WAIT that completes does so its length after the micro-op before it (R156). -/
theorem State.WaitsFromLastDone.lastDone_le (h : s.WaitsFromLastDone op) (hat : waitsAt op s.upc = true)
    (he : execWait ms s = .next t) (hupc : t.upc = s.upc + 1) : s.lastDone + gateMicros ms ≤ t.lastDone := by
  have ht0 : s.beginWait.t0 = s.lastDone := by
    by_cases hp : s.phase = .begun
    · simpa [hp] using h hat hp
    · simp [hp]
  rcases wait_cases s t ms he with ⟨-, rfl⟩ | ⟨hg, rfl⟩
  · simp at hupc
  · exact ht0 ▸ hg

/-- The gates that a micro-op adds to those passed have run between the previous completion and its own (R156, R260). -/
theorem State.WaitsFromLastDone.gatesPassed_le (h : s.WaitsFromLastDone op) (hdone : s.lastDone ≤ s.now)
    (hi : programInstr op s.upc = some i) (hh : i.isHost = false) (he : exec i s = .next t) :
    gatesPassed op t.upc + s.lastDone ≤ gatesPassed op s.upc + t.lastDone := by
  rcases (microOp_cases hh he).stays_or_completes with ⟨hupc, hlast⟩ | ⟨hupc, -, hlast⟩
  · rw [hupc, hlast]
  · have hwait : s.lastDone + waitMicros i ≤ t.lastDone := by
      by_cases hms : ∃ ms, i = .wait ms
      · obtain ⟨ms, rfl⟩ := hms
        exact h.lastDone_le (waitsAt_of_wait hi) he hupc
      · rw [waitMicros_of_ne_wait fun ms hw => hms ⟨ms, hw⟩, hlast]
        exact hdone
    rw [hupc, gatesPassed_succ hi]
    omega

theorem MicroEffect.lastDone_le (hm : MicroEffect s i t) (hdone : s.lastDone ≤ s.now) : s.lastDone ≤ t.lastDone := by
  rcases hm.stays_or_completes with ⟨-, hlast⟩ | ⟨-, -, hlast⟩ <;> omega

end

/-! ## The order of the trace in the host's turn -/

section
variable {s t : State}

theorem CommandEffect.clocked {op : HostOp} (he : CommandEffect s op t) (hb : s.busy = false) (h : s.Clocked) :
    t.Clocked := by
  cases he with
  | started => exact (h.recorded.doneNow.consNow (.accept op)).clocked fun _ => rfl
  | refused | noop | delivered | unallocated => exact ((h.recorded.consNow _).consNow _).clocked_of_idle hb

theorem AccessEffect.clocked {a : HostAccess} (he : AccessEffect s a t) (h : s.Clocked) : t.Clocked := by
  cases he with
  | command _ hb _ _ _ _ he => exact he.clocked hb h
  | create _ _ c => exact HostEffect.clocked (.create ‹_› c (lookup_mem _ _ _ ‹_›)) h
  | read | readUnmapped | bank | violates | notFound | detach | dead => exact h.congr rfl rfl rfl rfl rfl

end

/-! ## The last release of the reset line -/

section
variable {s t : State} {i : Instr} {op : HostOp} {trace trace' : List Event} {us us' now now' : Nat}

theorem lastRelease_append {new : List Event} (h : ∀ e ∈ new, e.kind ≠ .rst .high) :
    lastRelease (new ++ trace) = lastRelease trace := by
  induction new with
  | nil => rfl
  | cons e new ih =>
    obtain ⟨he, hnew⟩ := List.forall_mem_cons.1 h
    rw [List.cons_append, lastRelease]
    · exact ih hnew
    · rintro ts tc rfl
      exact he rfl

/-- Only an RST(High) moves the last release. -/
theorem State.GrewBy.lastRelease_eq {p : EventKind → Bool} (h : s.GrewBy t p) (hp : p (.rst .high) = false) :
    lastRelease t.trace = lastRelease s.trace := by
  obtain ⟨new, htrace, hnew⟩ := h
  rw [htrace]
  refine lastRelease_append fun e he hkind => ?_
  simpa [hkind, hp] using hnew e he

theorem MicroEffect.lastRelease_eq (hm : MicroEffect s i t) (hi : i ≠ .rst .high) :
    lastRelease t.trace = lastRelease s.trace := by
  refine hm.grewBy.lastRelease_eq (Bool.eq_false_iff.2 fun he => hi ?_)
  cases i <;> simp_all [microOpEmits]

/-- As long as the line is not released again, the release moves back as time passes. -/
theorem releasedBefore_mono (h : ReleasedBefore trace us now) (hrel : lastRelease trace' = lastRelease trace)
    (hnow : us' + now ≤ us + now') : ReleasedBefore trace' us' now' := by
  obtain ⟨r, hr, hle⟩ := h
  exact ⟨r, hrel.trans hr, by omega⟩

theorem TrafficSettled.cons {e : Event} (h : TrafficSettled trace)
    (he : e.kind.isTraffic = true → ReleasedBefore trace 130000 e.ts) : TrafficSettled (e :: trace) :=
  ⟨he, h⟩

theorem TrafficSettled.append {new : List Event} (h : TrafficSettled trace) (hnew : ∀ e ∈ new, e.kind.isTraffic = false) :
    TrafficSettled (new ++ trace) := by
  induction new with
  | nil => exact h
  | cons e new ih =>
    obtain ⟨he, hnew⟩ := List.forall_mem_cons.1 hnew
    exact (ih hnew).cons fun hk => by simp [he] at hk

/-- Events that are no traffic leave the traffic settled. -/
theorem State.GrewBy.trafficSettled {p : EventKind → Bool} (h : s.GrewBy t p)
    (hp : ∀ k, p k = true → k.isTraffic = false) (hs : TrafficSettled s.trace) : TrafficSettled t.trace := by
  obtain ⟨new, htrace, hnew⟩ := h
  rw [htrace]
  exact hs.append fun e he => hp _ (hnew e he)

theorem TrafficSettled.done (h : TrafficSettled trace) (o : Option HostOp) (r : ResultCode) :
    TrafficSettled (doneEvent o r now ++ trace) :=
  h.append (by cases o <;> simp [doneEvent, EventKind.isTraffic])

/-- A micro-op leaves the traffic settled when its own was issued late enough after the release (R262). -/
theorem MicroEffect.trafficSettled (hm : MicroEffect s i t) (h : TrafficSettled s.trace)
    (hrel : ∀ k, microOpEmits i k = true → k.isTraffic = true → ReleasedBefore s.trace 130000 s.issueTime) :
    TrafficSettled t.trace := by
  cases hm with
  | dcsOk cmd widx => exact ⟨fun _ => by simpa using hrel _ (microOpEmits_dcs cmd widx .ok) rfl, h⟩
  | dcsWarns cmd widx => exact ⟨fun _ => by simpa using hrel _ (microOpEmits_dcs cmd widx .err) rfl, h⟩
  | recordOk b0 b1 => exact ⟨fun _ => by simpa using hrel (.write s.ri b0 b1 .ok) rfl rfl, h⟩
  | recordRaises b0 b1 =>
    exact (h.cons (by simpa using fun _ => hrel (.write s.ri b0 b1 .err) rfl rfl)).done _ _
  | stateSet | driven | railOk | railPends => exact ⟨nofun, h⟩
  | railRaises => exact (h.cons (by simp [EventKind.isTraffic])).done _ _
  | ended => exact h.done _ _
  | gateClosed | gateOpen | railWaits | dcsWaits | replayBegins | recordWaits | replayEnds => exact h

/-! ## The invariant of the traffic -/

/-- The traffic of a program is issued late enough: ENABLE's after its own WAIT, DISABLE's in Active (R262). -/
theorem State.Settled.releasedBefore_traffic {k : EventKind} (h : s.Settled) (hl : s.live = true) (hb : s.busy = true)
    (hop : s.curOp = some op) (hat : s.At op) (hi : programInstr op s.upc = some i) (he : microOpEmits i k = true)
    (hk : k.isTraffic = true) : ReleasedBefore s.trace 130000 s.lastDone := by
  rcases traffic_position hi he hk with ⟨rfl, hupc, -⟩ | ⟨rfl, hupc⟩
  · exact h.enabling hl hb hop hupc
  · obtain ⟨-, -, -, -, hlife⟩ := hat
    exact h.active hl (by rw [hlife, if_neg (by omega)])

/-- Where the reset line is not released and PREPARE and ENABLE stand at their first micro-op at most, only the part of STATE is
left to keep, and time helps it. -/
theorem State.Settled.of_not_begun (h : s.Settled) (htraffic : TrafficSettled t.trace)
    (hrel : lastRelease t.trace = lastRelease s.trace) (hdone : s.lastDone ≤ t.lastDone)
    (hlive : t.live = true → s.live = true ∧ t.lifeState = s.lifeState)
    (hop : t.live = true → t.busy = true → t.curOp = some .prepare ∨ t.curOp = some .enable → t.upc = 0) : t.Settled where
  traffic := htraffic
  releasing hl hb ho hk := by have := hop hl hb (.inl ho); omega
  released hl hb ho hk := by have := hop hl hb (.inl ho); omega
  resetting hl hlife := by
    obtain ⟨hl', hst⟩ := hlive hl
    exact releasedBefore_mono (h.resetting hl' (hst ▸ hlife)) hrel (by omega)
  enabling hl hb ho hk := by have := hop hl hb (.inr ho); omega
  active hl hlife := by
    obtain ⟨hl', hst⟩ := hlive hl
    exact releasedBefore_mono (h.active hl' (hst ▸ hlife)) hrel (by omega)

theorem State.Settled.arrive (h : s.Settled) : s.arrive.Settled :=
  ⟨h.traffic, h.releasing, h.released, h.resetting, h.enabling, h.active⟩

theorem State.Settled.settleDetach (h : s.Settled) (hdone : s.lastDone ≤ s.now) : s.settleDetach.Settled := by
  rcases settleDetach_cases s with heq | ⟨-, -, -, heq⟩ | ⟨-, -, -, heq⟩ <;> rw [heq]
  · exact h
  · exact h.of_not_begun h.traffic rfl le_rfl (by simp) (by simp)
  · exact h.of_not_begun h.traffic rfl hdone (fun hl => ⟨hl, rfl⟩) (by simp)

/-- A command emits no traffic and drives no line, and the program it enters stands at its first micro-op (R110). -/
theorem State.Settled.command (h : s.Settled) (hdone : s.lastDone ≤ s.now) (hb : s.busy = false)
    (he : CommandEffect s op t) : t.Settled := by
  have htraffic := he.grewBy.trafficSettled (fun _ => EventKind.isTraffic_of_isCommand) h.traffic
  have hrel := he.grewBy.lastRelease_eq rfl
  cases he with
  | started => exact h.of_not_begun htraffic hrel hdone (fun hl => ⟨hl, rfl⟩) (fun _ _ _ => rfl)
  | refused | noop | delivered | unallocated =>
    exact h.of_not_begun htraffic hrel le_rfl (fun hl => ⟨hl, rfl⟩) fun _ hb' => absurd (hb'.symm.trans hb) (by decide)

theorem State.Settled.access {a : HostAccess} (h : s.Settled) (hdone : s.lastDone ≤ s.now) (he : AccessEffect s a t) :
    t.Settled := by
  cases he with
  | command _ hb _ _ _ _ he => exact h.command hdone hb he
  | create => constructor <;> simp [State.reset, TrafficSettled]
  | read | readUnmapped | bank | violates | notFound | detach | dead =>
    exact ⟨h.traffic, h.releasing, h.released, h.resetting, h.enabling, h.active⟩

/-- PREPARE releases the reset line, and its second WAIT begins then (R115). -/
theorem State.Settled.release (h : s.Settled) (hk : s.upc = 3) (hop : s.curOp = some .prepare)
    (hlife : s.lifeState = .unpowered) : (s.drive .high).complete.Settled where
  traffic := ⟨nofun, h.traffic⟩
  releasing _ _ _ _ := ⟨s.now, rfl, le_rfl⟩
  released _ _ _ hk' := by simp [hk] at hk'
  resetting _ hst := by simp [hlife] at hst
  enabling _ _ ho := by simp [hop] at ho
  active _ hst := by simp [hlife] at hst

/-- After the release PREPARE's second WAIT runs, and then the release lies its length back (R115). -/
theorem State.Settled.prepare_next (h : s.Settled) (hl : s.live = true) (hb : s.busy = true)
    (hop : s.curOp = some .prepare) (hi : programInstr .prepare s.upc = some i) (hhigh : i ≠ .rst .high)
    (hm : MicroEffect s i t) (hrel : lastRelease t.trace = lastRelease s.trace) (hlast : s.lastDone ≤ t.lastDone)
    (hgate : gatesPassed .prepare t.upc + s.lastDone ≤ gatesPassed .prepare s.upc + t.lastDone) :
    (t.upc = 4 → ReleasedBefore t.trace 0 t.lastDone) ∧ (t.upc = 5 → ReleasedBefore t.trace 120000 t.lastDone) := by
  rcases hm.upc_cases with hupc | ⟨hupc, -⟩ <;> rw [hupc] at hgate ⊢ <;> refine ⟨fun hk => ?_, fun hk => ?_⟩
  · exact releasedBefore_mono (h.releasing hl hb hop hk) hrel (by omega)
  · exact releasedBefore_mono (h.released hl hb hop hk) hrel (by omega)
  · have hk' : s.upc = 3 := by omega
    rw [hk'] at hi
    exact absurd (Option.some.inj hi).symm hhigh
  · have hk' : s.upc = 4 := by omega
    rw [hk'] at hgate
    change 240000 + s.lastDone ≤ 120000 + t.lastDone at hgate
    exact releasedBefore_mono (h.releasing hl hb hop hk') hrel (by omega)

/-- ENABLE's first WAIT adds its 10 ms to the 120 ms that Resetting stands for (R120, R262). -/
theorem State.Settled.enable_next (h : s.Settled) (hl : s.live = true) (hb : s.busy = true)
    (hop : s.curOp = some .enable) (hat : s.At .enable) (hm : MicroEffect s i t)
    (hrel : lastRelease t.trace = lastRelease s.trace) (hlast : s.lastDone ≤ t.lastDone)
    (hgate : gatesPassed .enable t.upc + s.lastDone ≤ gatesPassed .enable s.upc + t.lastDone) (hk : 1 ≤ t.upc) :
    ReleasedBefore t.trace 130000 t.lastDone := by
  by_cases hk0 : s.upc = 0
  · obtain ⟨-, -, -, -, -, hlife⟩ := hat
    have hk1 : t.upc = 1 := by rcases hm.upc_cases with hupc | ⟨hupc, -⟩ <;> omega
    rw [hk0, hk1] at hgate
    change 10000 + s.lastDone ≤ 0 + t.lastDone at hgate
    exact releasedBefore_mono (h.resetting hl (by simpa [hk0] using hlife)) hrel (by omega)
  · exact releasedBefore_mono (h.enabling hl hb hop (by omega)) hrel (by omega)

/-- PREPARE writes Resetting behind its second WAIT, and ENABLE Active behind its first (R90, R170). -/
theorem State.Settled.lifeState_next (h : s.Settled) (hl : s.live = true) (hb : s.busy = true) (hop : s.curOp = some op)
    (hi : programInstr op s.upc = some i) (hm : MicroEffect s i t) (hrel : lastRelease t.trace = lastRelease s.trace)
    (hlast : s.lastDone ≤ t.lastDone) :
    (t.lifeState = .resetting → ReleasedBefore t.trace 120000 t.lastDone)
      ∧ (t.lifeState = .active → ReleasedBefore t.trace 130000 t.lastDone) := by
  rcases hm.lifeState_cases with hlife | ⟨c, rfl, hcode⟩
  · rw [hlife]
    exact ⟨fun hst => releasedBefore_mono (h.resetting hl hst) hrel (by omega),
      fun hst => releasedBefore_mono (h.active hl hst) hrel (by omega)⟩
  · refine ⟨fun hst => ?_, fun hst => ?_⟩ <;> rw [hst] at hcode <;>
      rcases setst_position hi with ⟨rfl, hk, rfl⟩ | ⟨-, -, rfl⟩ | ⟨rfl, hk, rfl⟩ | ⟨-, -, rfl⟩ | ⟨-, -, rfl⟩ <;> cases hcode
    · exact releasedBefore_mono (h.released hl hb hop hk) hrel (by omega)
    · exact releasedBefore_mono (h.enabling hl hb hop (by omega)) hrel (by omega)

/-- A micro-op of a fixed program keeps the invariant: the gates it passes are what STATE and the next places ask for. -/
theorem State.Settled.microOp (h : s.Settled) (hc : s.Clocked) (hl : s.live = true) (hb : s.busy = true)
    (hop : s.curOp = some op) (hat : s.At op) (hwait : s.WaitsFromLastDone op) (hi : programInstr op s.upc = some i)
    (hh : i.isHost = false) (he : exec i s = .next t) : t.Settled := by
  have hm := microOp_cases hh he
  by_cases hhigh : i = .rst .high
  · subst hhigh
    obtain ⟨rfl, hk⟩ := driveHigh_position hi
    obtain ⟨-, -, -, hlife, -⟩ := hat
    cases he
    exact h.release hk hop (by simpa [hk] using hlife)
  have hrel := hm.lastRelease_eq hhigh
  have hlast := hm.lastDone_le hc.done
  have hgate := hwait.gatesPassed_le hc.done hi hh he
  have hcur : ∀ {op'}, t.curOp = some op' → op' = op := fun ho =>
    Option.some.inj (ho.symm.trans (hm.framed.curOp.trans hop))
  obtain ⟨hresetting, hactive⟩ := h.lifeState_next hl hb hop hi hm hrel hlast
  refine ⟨hm.trafficSettled h.traffic fun k hk htr => ?_, fun _ _ ho => ?_, fun _ _ ho => ?_,
    fun _ => hresetting, fun _ _ ho hk => ?_, fun _ => hactive⟩
  · obtain ⟨-, hissue, -⟩ := hc.issueTime_bounds hb
    exact releasedBefore_mono (h.releasedBefore_traffic hl hb hop hat hi hk htr) rfl (by omega)
  · obtain rfl := hcur ho
    exact (h.prepare_next hl hb hop hi hhigh hm hrel hlast hgate).1
  · obtain rfl := hcur ho
    exact (h.prepare_next hl hb hop hi hhigh hm hrel hlast hgate).2
  · obtain rfl := hcur ho
    exact h.enable_next hl hb hop hat hm hrel hlast hgate hk

end

/-- Settles O53: the input's arrival, the host's access, the micro-op and a waiting detach each keep the traffic settled. -/
theorem settledKept : Obligations.SettledKept := by
  intro s t hs hc h hstep
  have hc' := hc.arrive
  cases step_effect hstep with
  | idle => exact h.arrive
  | host a u _ he => exact (h.arrive.access hc'.done he).settleDetach (he.clocked hc').done
  | micro w i u _ hl hb hw hi he =>
    obtain ⟨op, hop, hat, hk⟩ := hs.programInstr_of_fetch hl hb hw hi
    have hh := decodeUop_isHost hi
    exact (h.arrive.microOp hc' hl hb hop hat (hs.waiting hl hb op hop) hk hh he).settleDetach
      ((microOp_cases hh he).clocked hb hc').done

end Sys2Proof.Machine
end

section
/-! PROOFS. The minimum durations (R266): a running program was accepted at least as long ago as the gates it has passed, and so
every step keeps `State.Paced`. -/

namespace Sys2Proof.Machine

/-! ## The last acceptance of an operation -/

section
variable {s t : State} {i : Instr} {op : HostOp} {trace trace' : List Event} {us us' now now' : Nat}

theorem lastAccept_append {new : List Event} (h : ∀ e ∈ new, e.kind ≠ .accept op) :
    lastAccept op (new ++ trace) = lastAccept op trace := by
  induction new with
  | nil => rfl
  | cons e new ih =>
    obtain ⟨he, hnew⟩ := List.forall_mem_cons.1 h
    rw [List.cons_append, lastAccept, if_neg he]
    exact ih hnew

/-- A micro-op accepts no operation. -/
theorem MicroEffect.lastAccept_eq (hm : MicroEffect s i t) (op : HostOp) : lastAccept op t.trace = lastAccept op s.trace := by
  obtain ⟨new, htrace, hnew⟩ := hm.grewBy
  rw [htrace]
  refine lastAccept_append fun e he hkind => ?_
  have hemits := hnew e he
  rw [hkind] at hemits
  cases i <;> cases hemits

/-- An acceptance is no newer than the newest event (R13). -/
theorem lastAccept_le {a : Nat} (h : Ordered trace) (ha : lastAccept op trace = some a) : a ≤ lastTc trace := by
  induction trace with
  | nil => cases ha
  | cons e older ih =>
    obtain ⟨htc, hts, holder⟩ := h
    rw [lastAccept] at ha
    split at ha
    · cases ha
      exact le_rfl
    · exact (ih holder ha).trans (hts.trans htc)

/-- The acceptance moves back as time passes, at least by the gates that are passed meanwhile. -/
theorem acceptedBefore_mono (h : AcceptedBefore trace op us now) (hacc : lastAccept op trace' = lastAccept op trace)
    (hnow : us' + now ≤ us + now') : AcceptedBefore trace' op us' now' := by
  obtain ⟨a, ha, hle⟩ := h
  exact ⟨a, hacc.trans ha, by omega⟩

theorem noneAcceptedWithin_mono (h : NoneAcceptedWithin trace op us now)
    (hacc : lastAccept op trace' = lastAccept op trace) (hnow : us' + now ≤ us + now') :
    NoneAcceptedWithin trace' op us' now' := fun a ha => by
  have hle := h a (hacc.symm.trans ha)
  omega

/-! ## The durations in the trace -/

/-- An event that is no DONE ends no operation. -/
theorem DurationsKept.cons {e : Event} (h : DurationsKept trace) (he : ∀ op r, e.kind ≠ .done op r) :
    DurationsKept (e :: trace) :=
  ⟨fun op r _ hk => absurd hk (he op r), fun r hk => absurd hk (he _ r), h⟩

/-- A command that is done in one step ran no program, or is one for which R266 gives no minimum. -/
theorem DurationsKept.acceptDone {r : ResultCode} (h : DurationsKept trace) (hr : op ≠ .unprepare → minDuration op r = 0) :
    DurationsKept (⟨.done op r, now, now⟩ :: ⟨.accept op, now, now⟩ :: trace) := by
  refine ⟨fun op' r' hop hk hpos => ?_, fun r' hk => ?_, h.cons nofun⟩ <;> cases hk
  · have hzero := hr hop
    omega
  · exact .inl ⟨now, trace, rfl⟩

/-- The DONE of an operation whose program ran keeps its minimum. -/
theorem DurationsKept.done {r : ResultCode} (h : DurationsKept trace)
    (hprogram : op ≠ .unprepare → 0 < minDuration op r → AcceptedBefore trace op (minDuration op r) now)
    (hunprepare : op = .unprepare → NoneAcceptedWithin trace .unprepare (minDuration .unprepare r) now) :
    DurationsKept (⟨.done op r, now, now⟩ :: trace) := by
  refine ⟨fun op' r' hop hk hpos => ?_, fun r' hk => ?_, h⟩ <;> cases hk
  · exact hprogram hop hpos
  · exact .inr (hunprepare rfl)

/-! ## The end of a program -/

/-- Wherever a program can end, it has passed the gates of its minimum (R266). -/
theorem EndEffect.minDuration_le (he : EndEffect s i t) (hi : programInstr op s.upc = some i) :
    minDuration op t.result ≤ gatesPassed op s.upc := by
  cases he with
  | ended =>
    rw [State.finish_result]
    rcases end_position hi with ⟨rfl, hk⟩ | ⟨rfl, hk⟩ | ⟨rfl, hk⟩ | ⟨rfl, hk⟩ <;> rw [hk] <;> cases s.pend <;> decide
  | rail en =>
    obtain ⟨rfl, hk, -⟩ := fatalRail_position hi
    rw [hk]
    exact le_rfl
  | record =>
    obtain ⟨rfl, hk⟩ := replay_position hi
    rw [hk]
    exact le_rfl

/-- UNPREPARE's program ends at its END only, behind its WAIT (R130). -/
theorem EndEffect.gatesPassed_unprepare (he : EndEffect s i t) (hi : programInstr .unprepare s.upc = some i) :
    gatesPassed .unprepare s.upc = 120000 ∧ t.now = s.now := by
  cases he with
  | ended =>
    have hk : s.upc = 4 := by simpa using end_position hi
    exact ⟨by rw [hk]; rfl, rfl⟩
  | rail en => cases (fatalRail_position hi).1
  | record => cases (replay_position hi).1

/-- Before its DONE an end emits at most the event of the request that failed (R171). -/
theorem EndEffect.durationsKept (he : EndEffect s i t) (hop : s.curOp = some op) (h : DurationsKept s.trace) :
    ∃ older, t.trace = ⟨.done op t.result, t.now, t.now⟩ :: older ∧ DurationsKept older := by
  cases he with
  | ended => exact ⟨s.trace, by simp [hop, doneEvent], h⟩
  | rail | record => exact ⟨_, by simp [hop, doneEvent]; rfl, h.cons (by simp)⟩

/-! ## The invariant of the durations -/

/-- A micro-op keeps the durations: where it ends its program, the gates of the minimum are passed (R266). -/
theorem State.Paced.durationsKept (h : s.Paced) (hc : s.Clocked) (hl : s.live = true) (hb : s.busy = true)
    (hop : s.curOp = some op) (hi : programInstr op s.upc = some i) (hm : MicroEffect s i t) : DurationsKept t.trace := by
  rcases hm.ends_or_goes_on with hend | ⟨-, -, heq | ⟨e, heq, hne⟩⟩
  · obtain ⟨older, htrace, hkept⟩ := hend.durationsKept hop h.kept
    have hacc : ∀ op', lastAccept op' older = lastAccept op' s.trace := fun op' => by
      rw [← hm.lastAccept_eq op', htrace]
      rfl
    have hmin := hend.minDuration_le hi
    have hnow : s.lastDone ≤ t.now := hm.framed.now ▸ hc.done
    rw [htrace]
    refine hkept.done (fun hne hpos => ?_) ?_
    · refine acceptedBefore_mono (h.running hl hb op hop ?_) (hacc op) (by omega)
      cases op <;> simp_all [minDuration]
    · rintro rfl
      exact noneAcceptedWithin_mono (h.tearingDown hl hb hop).1 (hacc _) (by omega)
  · rw [heq]
    exact h.kept
  · rw [heq]
    exact h.kept.cons hne

theorem State.Paced.arrive (h : s.Paced) : s.arrive.Paced :=
  ⟨h.kept, h.running, h.tearingDown⟩

/-- An idle block or none runs no program. -/
theorem State.paced_of_not_running (hkept : DurationsKept s.trace) (hrun : s.live = true → s.busy = false) : s.Paced :=
  ⟨hkept, fun hl hb => absurd (hb.symm.trans (hrun hl)) (by decide),
    fun hl hb => absurd (hb.symm.trans (hrun hl)) (by decide)⟩

/-- The program that a detach enters has passed no gate, and no acceptance lies in the future (R252). -/
theorem State.Paced.settleDetach (h : s.Paced) (hc : s.Clocked) : s.settleDetach.Paced := by
  rcases settleDetach_cases s with heq | ⟨-, -, -, heq⟩ | ⟨hd, -, -, heq⟩ <;> rw [heq]
  · exact h
  · exact State.paced_of_not_running h.kept (by simp)
  · refine ⟨h.kept, by simp, fun _ _ _ => ⟨fun a ha => ?_, by simp [hd]⟩⟩
    exact (lastAccept_le hc.ordered ha).trans hc.past

/-- A program that a command enters has just been accepted (R110). -/
theorem State.Paced.started (h : s.Paced) (op : HostOp) : (s.start op).Paced := by
  have hacc : lastAccept op (s.start op).trace = some s.now := if_pos rfl
  have hgates : gatesPassed op 0 = 0 := by cases op <;> rfl
  refine ⟨h.kept.cons nofun, fun _ _ op' hop _ => ?_, fun _ _ hop => ?_⟩ <;> cases hop
  · exact ⟨s.now, hacc, by simp [hgates]⟩
  · exact ⟨fun a ha => by cases ha.symm.trans hacc; simp [hgates], fun _ => ⟨s.now, hacc, by simp [hgates]⟩⟩

theorem State.Paced.command (h : s.Paced) (hb : s.busy = false) (he : CommandEffect s op t) : t.Paced := by
  cases he with
  | started => exact h.started op
  | refused => exact State.paced_of_not_running (h.kept.acceptDone fun _ => by cases op <;> rfl) fun _ => hb
  | noop => exact State.paced_of_not_running (h.kept.acceptDone fun hne => absurd rfl hne) fun _ => hb
  | delivered | unallocated => exact State.paced_of_not_running (h.kept.acceptDone fun _ => rfl) fun _ => hb

theorem State.Paced.access {a : HostAccess} (h : s.Paced) (he : AccessEffect s a t) : t.Paced := by
  cases he with
  | command _ hb _ _ _ _ he => exact h.command hb he
  | create => exact State.paced_of_not_running trivial fun _ => rfl
  | detach => exact ⟨h.kept, h.running, fun hl hb hop => ⟨(h.tearingDown hl hb hop).1, nofun⟩⟩
  | read | readUnmapped | bank | violates | notFound | dead => exact ⟨h.kept, h.running, h.tearingDown⟩

/-- A micro-op of a fixed program keeps the invariant: the gates it passes have run since the previous one completed. -/
theorem State.Paced.microOp (h : s.Paced) (hc : s.Clocked) (hl : s.live = true) (hb : s.busy = true)
    (hop : s.curOp = some op) (hwait : s.WaitsFromLastDone op) (hi : programInstr op s.upc = some i)
    (hh : i.isHost = false) (he : exec i s = .next t) : t.Paced := by
  have hm := microOp_cases hh he
  have hgate := hwait.gatesPassed_le hc.done hi hh he
  have hcur : ∀ {op'}, t.curOp = some op' → op' = op := fun ho =>
    Option.some.inj (ho.symm.trans (hm.framed.curOp.trans hop))
  refine ⟨h.durationsKept hc hl hb hop hi hm, fun _ _ op' ho hkind => ?_, fun _ _ ho => ?_⟩ <;> obtain rfl := hcur ho
  · exact acceptedBefore_mono (h.running hl hb _ hop hkind) (hm.lastAccept_eq _) hgate
  · obtain ⟨hnone, hacc⟩ := h.tearingDown hl hb hop
    exact ⟨noneAcceptedWithin_mono hnone (hm.lastAccept_eq _) hgate,
      fun hd => acceptedBefore_mono (hacc (hm.framed.detaching.symm.trans hd)) (hm.lastAccept_eq _) hgate⟩

end

/-- Settles O55: the input's arrival, the host's access, the micro-op and a waiting detach each keep the durations; UNPREPARE ends
behind its WAIT. -/
theorem pacedKept : Obligations.PacedKept := by
  intro s t hs hc h hstep
  refine ⟨?_, fun r hl hb hop hends => ?_⟩
  · cases step_effect hstep with
    | idle => exact h.arrive
    | host a u _ he => exact (h.arrive.access he).settleDetach (he.clocked hc.arrive)
    | micro w i u _ hl hb hw hi he =>
      obtain ⟨op, hop, -, hk⟩ := hs.programInstr_of_fetch hl hb hw hi
      have hh := decodeUop_isHost hi
      exact (h.arrive.microOp hc.arrive hl hb hop (hs.waiting hl hb op hop) hk hh he).settleDetach
        ((microOp_cases hh he).clocked hb hc.arrive)
  · rcases hs.ends_or_goes_on hl hb hstep with ⟨-, hno⟩ | ⟨op, i, u, hop', -, hk, hend, -, rfl⟩
    · exact absurd hends hno.not_endsWith
    obtain rfl := Option.some.inj (hop.symm.trans hop')
    obtain ⟨hgates, hnow⟩ := hend.gatesPassed_unprepare hk
    obtain ⟨hnone, hacc⟩ := h.arrive.tearingDown hl hb hop
    rw [hgates] at hnone hacc
    have hle := hc.arrive.done
    rw [settleDetach_now, hnow]
    exact ⟨noneAcceptedWithin_mono hnone rfl (by omega), fun hd => acceptedBefore_mono (hacc hd) rfl (by omega)⟩

end Sys2Proof.Machine
end

section
/-! PROOFS. The detach (R252): what the step that asks for it does, and the step that ends the operation it has waited for. -/

namespace Sys2Proof.Machine

section
variable {s u : State} {i : Instr} {op : HostOp} {r : ResultCode}

/-- On an idle block in Unpowered a waiting detach ends the block (R252). -/
theorem settleDetach_destroyed (hd : s.detaching = true) (hb : s.busy = false) (hlife : s.lifeState = .unpowered) :
    s.settleDetach.live = false ∧ s.settleDetach.busy = false ∧ s.settleDetach.detaching = false := by
  rw [settleDetach_unpowered hd hb hlife]
  exact ⟨rfl, hb, rfl⟩

/-- On an idle block outside Unpowered a waiting detach enters UNPREPARE's program, and goes on waiting (R252). -/
theorem settleDetach_entered (hl : s.live = true) (hd : s.detaching = true) (hb : s.busy = false)
    (hlife : s.lifeState ≠ .unpowered) :
    s.settleDetach.live = true ∧ s.settleDetach.detaching = true ∧ s.settleDetach.busy = true
      ∧ s.settleDetach.curOp = some .unprepare ∧ s.settleDetach.upc = 0 ∧ s.settleDetach.pend = .ok
      ∧ s.settleDetach.phase = .fresh := by
  rw [settleDetach_powered hd hb hlife]
  exact ⟨hl, hd, rfl, rfl, rfl, rfl, rfl⟩

/-- The turn that asks for a detach waits, ends the block, or enters UNPREPARE's program, and emits nothing (R252). -/
theorem afterTurn_detach (hl : s.live = true) (hd : s.detaching = false) :
    ∃ t, afterTurn (hostAccess .detach s) = .next t ∧ t.trace = s.trace ∧ t.lifeState = s.lifeState
      ∧ t.railReq = s.railReq ∧ t.resetN = s.resetN
      ∧ (s.busy = true → t.live = true ∧ t.detaching = true ∧ t.busy = true ∧ t.curOp = s.curOp ∧ t.upc = s.upc
        ∧ t.phase = s.phase)
      ∧ (s.busy = false → s.lifeState = .unpowered → t.live = false ∧ t.busy = false)
      ∧ (s.busy = false → s.lifeState ≠ .unpowered → t.live = true ∧ t.detaching = true ∧ t.busy = true
        ∧ t.curOp = some .unprepare ∧ t.upc = 0 ∧ t.pend = .ok) := by
  rw [hostAccess_detach hl hd]
  refine ⟨_, rfl, by simp, by simp, by simp, by simp, fun hb => ?_, fun hb hlife => ?_, fun hb hlife => ?_⟩
  · rw [settleDetach_busy { s with detaching := true } hb]
    exact ⟨hl, rfl, hb, rfl, rfl, rfl⟩
  · obtain ⟨hlive, hbusy, -⟩ := settleDetach_destroyed (s := { s with detaching := true }) rfl hb hlife
    exact ⟨hlive, hbusy⟩
  · obtain ⟨hlive, hdet, hbusy, hop, hupc, hpend, -⟩ :=
      settleDetach_entered (s := { s with detaching := true }) hl rfl hb hlife
    exact ⟨hlive, hdet, hbusy, hop, hupc, hpend⟩

theorem EndEffect.live (he : EndEffect s i u) : u.live = s.live := by
  cases he <;> rfl

/-- The result that the newest DONE names is the one the end has written (R171, R172). -/
theorem EndEffect.result_of_endsWith (he : EndEffect s i u) (hop : s.curOp = some op) (h : s.EndsWith u.settleDetach r) :
    u.result = r := by
  obtain ⟨-, older, htrace, -⟩ := he.done hop
  obtain ⟨op', older', htrace', -⟩ := h
  simp only [settleDetach_trace, htrace, List.cons.injEq, Event.mk.injEq, EventKind.done.injEq] at htrace'
  obtain ⟨⟨⟨-, hr⟩, -⟩, -⟩ := htrace'
  exact hr

end

/-- Settles O14: the asking step lets the detach go on when the block is idle, and the step that ends the operation does so then;
UNPREPARE itself has ended in Unpowered. -/
theorem detachBegins : Obligations.DetachBegins := by
  refine ⟨fun s ha hl hd => ?_, fun s t r h hd hb hstep hends => ?_⟩
  · rw [step_of_access ha]
    exact afterTurn_detach (s := s.arrive) hl hd
  obtain ⟨hl, -⟩ := h.detach hd
  rcases h.ends_or_goes_on hl hb hstep with ⟨-, hno⟩ | ⟨op, i, u, hop, hat, hk, hend, hdet, rfl⟩
  · exact absurd hends hno.not_endsWith
  obtain ⟨hidle, -⟩ := hend.done hop
  obtain ⟨-, -, hlife, -⟩ := hend.keeps
  have hl' : u.live = true := hend.live.trans hl
  have hd' : u.detaching = true := hdet.trans hd
  refine ⟨by simpa using hend.result_of_endsWith hop hends, by simpa using hlife, fun hst => ?_, fun hst => ?_,
    fun hun => ?_⟩
  · exact settleDetach_destroyed hd' hidle (hlife.trans hst)
  · exact settleDetach_entered hl' hd' hidle fun hu => hst (hlife.symm.trans hu)
  · obtain rfl := Option.some.inj (hop.symm.trans hun)
    obtain ⟨-, -, hend', -⟩ := hend.unprepare_outcome hat hk
    exact (settleDetach_destroyed hd' hidle hend').1

end Sys2Proof.Machine
end
